-- ==== Sys2Proof/Word.lean ====
section
/-! DEFINITION. The word types of the block (spec/00_scope.md R6, R8; spec/10_state.md R37). -/

namespace Sys2Proof

/-- An 8-bit value: a register of V0-VF, a timer, a byte of memory (R20, R29, R45). -/
abbrev Byte := BitVec 8

/-- A 16-bit value: an opcode word, I, PC, a stack entry (R70, R23, R24, R27). -/
abbrev Word := BitVec 16

/-- A 4-bit slice of an opcode word (R71). -/
abbrev Nibble := BitVec 4

/-- A 12-bit address operand, the field nnn (R71). -/
abbrev Addr := BitVec 12

/-- A register index: a 4-bit field, every value of which names one of V0-VF (R20, R74). -/
abbrev Reg := Fin 16

end Sys2Proof
end

