-- ==== Sys2Proof/Syntax.lean ====
section
/-! DEFINITION. The instructions: one constructor per row of spec/opcode_table.json (spec/30_encoding.md R76, R77). -/

namespace Sys2Proof

/-- The 35 instructions of R76 and the no-op space of R77. The manual's syntax (R84) and pattern stand at each. -/
inductive Instr where
  /-- CLS, 00E0 (R91). -/
  | cls
  /-- RET, 00EE (R92). -/
  | ret
  /-- SYS nnn, 0nnn (R90). -/
  | sysNnn (nnn : Addr)
  /-- JP nnn, 1nnn (R93). -/
  | jpNnn (nnn : Addr)
  /-- CALL nnn, 2nnn (R94). -/
  | callNnn (nnn : Addr)
  /-- SE Vx, kk, 3xkk (R95). -/
  | seVxKk (x : Reg) (kk : Byte)
  /-- SNE Vx, kk, 4xkk (R96). -/
  | sneVxKk (x : Reg) (kk : Byte)
  /-- SE Vx, Vy, 5xy0 (R97). -/
  | seVxVy (x y : Reg)
  /-- LD Vx, kk, 6xkk (R110). -/
  | ldVxKk (x : Reg) (kk : Byte)
  /-- ADD Vx, kk, 7xkk (R111). -/
  | addVxKk (x : Reg) (kk : Byte)
  /-- LD Vx, Vy, 8xy0 (R112). -/
  | ldVxVy (x y : Reg)
  /-- OR Vx, Vy, 8xy1 (R113). -/
  | orVxVy (x y : Reg)
  /-- AND Vx, Vy, 8xy2 (R114). -/
  | andVxVy (x y : Reg)
  /-- XOR Vx, Vy, 8xy3 (R115). -/
  | xorVxVy (x y : Reg)
  /-- ADD Vx, Vy, 8xy4 (R116). -/
  | addVxVy (x y : Reg)
  /-- SUB Vx, Vy, 8xy5 (R117). -/
  | subVxVy (x y : Reg)
  /-- SHR Vx [, Vy], 8xy6: y is encoded and not read (R118). -/
  | shrVx (x y : Reg)
  /-- SUBN Vx, Vy, 8xy7 (R119). -/
  | subnVxVy (x y : Reg)
  /-- SHL Vx [, Vy], 8xyE: y is encoded and not read (R120). -/
  | shlVx (x y : Reg)
  /-- SNE Vx, Vy, 9xy0 (R98). -/
  | sneVxVy (x y : Reg)
  /-- LD I, nnn, Annn (R130). -/
  | ldINnn (nnn : Addr)
  /-- JP V0, nnn, Bnnn (R99). -/
  | jpV0Nnn (nnn : Addr)
  /-- RND Vx, kk, Cxkk (R131). -/
  | rndVxKk (x : Reg) (kk : Byte)
  /-- DRW Vx, Vy, n, Dxyn (R132). -/
  | drwVxVyN (x y : Reg) (n : Nibble)
  /-- SKP Vx, Ex9E (R150). -/
  | skpVx (x : Reg)
  /-- SKNP Vx, ExA1 (R151). -/
  | sknpVx (x : Reg)
  /-- LD Vx, DT, Fx07 (R152). -/
  | ldVxDt (x : Reg)
  /-- LD Vx, K, Fx0A (R153). -/
  | ldVxK (x : Reg)
  /-- LD DT, Vx, Fx15 (R154). -/
  | ldDtVx (x : Reg)
  /-- LD ST, Vx, Fx18 (R155). -/
  | ldStVx (x : Reg)
  /-- ADD I, Vx, Fx1E (R156). -/
  | addIVx (x : Reg)
  /-- LD F, Vx, Fx29 (R157). -/
  | ldFVx (x : Reg)
  /-- LD B, Vx, Fx33 (R158). -/
  | ldBVx (x : Reg)
  /-- LD [I], Vx, Fx55 (R159). -/
  | ldMemVx (x : Reg)
  /-- LD Vx, [I], Fx65 (R160). -/
  | ldVxMem (x : Reg)
  /-- The table's catch-all row: a word no other row matches (R77). The word itself is kept, since a step records no
  other trace of it and the encoder must give it back. -/
  | noop (w : Word)
  deriving DecidableEq, Repr

end Sys2Proof
end

