-- ==== Sys2Proof/WellFormed.lean ====
section
/-! DEFINITION. Which instructions stand for a word of their own (spec/30_encoding.md R76, R77). The operand types already
bound every field; what is left to check is that SYS is not one of the two words of family 0 that come before it, and that
a no-op's word is one that no row of R76 matches. -/

namespace Sys2Proof

/-- SYS nnn is any word of family 0 other than 00E0 and 00EE (R76, R90). -/
def sysOk (nnn : Addr) : Bool := nnn != 0x0E0#12 && nnn != 0x0EE#12

/-- The sub-opcodes of family 8 that are instructions (R76). -/
def isAluSubOp (n : Nibble) : Bool :=
  [0x0#4, 0x1#4, 0x2#4, 0x3#4, 0x4#4, 0x5#4, 0x6#4, 0x7#4, 0xE#4].contains n

/-- The sub-opcodes of family E that are instructions (R76). -/
def isKeySubOp (kk : Byte) : Bool := kk == 0x9E#8 || kk == 0xA1#8

/-- The sub-opcodes of family F that are instructions (R76). -/
def isMiscSubOp (kk : Byte) : Bool :=
  [0x07#8, 0x0A#8, 0x15#8, 0x18#8, 0x1E#8, 0x29#8, 0x33#8, 0x55#8, 0x65#8].contains kk

/-- The five forms of the no-op space, as R77 lists them. -/
def isNoopWord (w : Word) : Bool :=
  let op := w.extractLsb' 12 4
  let n := w.extractLsb' 0 4
  let kk := w.extractLsb' 0 8
  (op == 0x5#4 && n != 0x0#4) || (op == 0x8#4 && !isAluSubOp n) || (op == 0x9#4 && n != 0x0#4)
    || (op == 0xE#4 && !isKeySubOp kk) || (op == 0xF#4 && !isMiscSubOp kk)

/-- An instruction is well formed when some word decodes to it. -/
def Instr.wellFormed : Instr → Bool
  | .sysNnn nnn => sysOk nnn
  | .noop w => isNoopWord w
  | .cls | .ret | .jpNnn _ | .callNnn _ | .seVxKk _ _ | .sneVxKk _ _ | .seVxVy _ _ | .ldVxKk _ _ | .addVxKk _ _
  | .ldVxVy _ _ | .orVxVy _ _ | .andVxVy _ _ | .xorVxVy _ _ | .addVxVy _ _ | .subVxVy _ _ | .shrVx _ _
  | .subnVxVy _ _ | .shlVx _ _ | .sneVxVy _ _ | .ldINnn _ | .jpV0Nnn _ | .rndVxKk _ _ | .drwVxVyN _ _ _
  | .skpVx _ | .sknpVx _ | .ldVxDt _ | .ldVxK _ | .ldDtVx _ | .ldStVx _ | .addIVx _ | .ldFVx _ | .ldBVx _
  | .ldMemVx _ | .ldVxMem _ => true

end Sys2Proof
end

