-- ==== Sys2Proof/Decode.lean ====
section
/-! DEFINITION. The fields of a word, the decoder, and after it the encoder (spec/30_encoding.md R70-R79).
The decoder is total on words: every word is one of the 35 instructions or a no-op (R78, R79). It is total on byte lists,
where it rejects by name a list that holds no whole word. -/

namespace Sys2Proof

/-- op = w[15:12], the family (R71). -/
def opOf (w : Word) : Nibble := w.extractLsb' 12 4

/-- x = w[11:8] (R71). -/
def xOf (w : Word) : Reg := (w.extractLsb' 8 4).toFin

/-- y = w[7:4] (R71). -/
def yOf (w : Word) : Reg := (w.extractLsb' 4 4).toFin

/-- n = w[3:0] (R71). -/
def nOf (w : Word) : Nibble := w.extractLsb' 0 4

/-- kk = w[7:0] (R71). -/
def kkOf (w : Word) : Byte := w.extractLsb' 0 8

/-- nnn = w[11:0] (R71). -/
def nnnOf (w : Word) : Addr := w.extractLsb' 0 12

/-- Family 0: two exact words, and SYS for every other (R76). -/
def decodeFamily0 (w : Word) : Instr :=
  if w = 0x00E0#16 then .cls else if w = 0x00EE#16 then .ret else .sysNnn (nnnOf w)

/-- Families 5 and 9 hold one instruction each, valid only when the low nibble is 0 (R76, R77). -/
def decodeLowNibbleZero (w : Word) (i : Reg → Reg → Instr) : Instr :=
  if nOf w = 0x0#4 then i (xOf w) (yOf w) else .noop w

/-- Family 8 multiplexes on n (R76); its other nibbles are no-ops (R77, R121). -/
def decodeFamily8 (w : Word) : Instr :=
  match nOf w with
  | 0x0#4 => .ldVxVy (xOf w) (yOf w)
  | 0x1#4 => .orVxVy (xOf w) (yOf w)
  | 0x2#4 => .andVxVy (xOf w) (yOf w)
  | 0x3#4 => .xorVxVy (xOf w) (yOf w)
  | 0x4#4 => .addVxVy (xOf w) (yOf w)
  | 0x5#4 => .subVxVy (xOf w) (yOf w)
  | 0x6#4 => .shrVx (xOf w) (yOf w)
  | 0x7#4 => .subnVxVy (xOf w) (yOf w)
  | 0xE#4 => .shlVx (xOf w) (yOf w)
  | _ => .noop w

/-- Family E multiplexes on kk (R76, R77). -/
def decodeFamilyE (w : Word) : Instr :=
  match kkOf w with
  | 0x9E#8 => .skpVx (xOf w)
  | 0xA1#8 => .sknpVx (xOf w)
  | _ => .noop w

/-- Family F multiplexes on kk (R76, R77). -/
def decodeFamilyF (w : Word) : Instr :=
  match kkOf w with
  | 0x07#8 => .ldVxDt (xOf w)
  | 0x0A#8 => .ldVxK (xOf w)
  | 0x15#8 => .ldDtVx (xOf w)
  | 0x18#8 => .ldStVx (xOf w)
  | 0x1E#8 => .addIVx (xOf w)
  | 0x29#8 => .ldFVx (xOf w)
  | 0x33#8 => .ldBVx (xOf w)
  | 0x55#8 => .ldMemVx (xOf w)
  | 0x65#8 => .ldVxMem (xOf w)
  | _ => .noop w

/-- The first level of decode: one of 16 handler slots by the high nibble (R75, R76). -/
def decodeWord (w : Word) : Instr :=
  match opOf w with
  | 0x0#4 => decodeFamily0 w
  | 0x1#4 => .jpNnn (nnnOf w)
  | 0x2#4 => .callNnn (nnnOf w)
  | 0x3#4 => .seVxKk (xOf w) (kkOf w)
  | 0x4#4 => .sneVxKk (xOf w) (kkOf w)
  | 0x5#4 => decodeLowNibbleZero w .seVxVy
  | 0x6#4 => .ldVxKk (xOf w) (kkOf w)
  | 0x7#4 => .addVxKk (xOf w) (kkOf w)
  | 0x8#4 => decodeFamily8 w
  | 0x9#4 => decodeLowNibbleZero w .sneVxVy
  | 0xA#4 => .ldINnn (nnnOf w)
  | 0xB#4 => .jpV0Nnn (nnnOf w)
  | 0xC#4 => .rndVxKk (xOf w) (kkOf w)
  | 0xD#4 => .drwVxVyN (xOf w) (yOf w) (nOf w)
  | 0xE#4 => decodeFamilyE w
  | _ => decodeFamilyF w -- 0xF, the one value left

/-- Why a byte list holds no instruction. No word is rejected (R78). -/
inductive DecodeError where
  /-- Fewer than the 2 bytes of an instruction (R70): the decoder's caller gave it too little. Safe. -/
  | truncated
  deriving DecidableEq, Repr

/-- The 16-bit word of two bytes, the one at the lower address first: big-endian (R49). -/
def wordOfBytes (hi lo : Byte) : Word := hi ++ lo

/-- The two bytes of a word in address order (R49). -/
def bytesOfWord (w : Word) : List Byte := [w.extractLsb' 8 8, w.extractLsb' 0 8]

/-- Decode from bytes in address order: exactly 2 are consumed (R70). -/
def decode : List Byte → Except DecodeError (Instr × List Byte)
  | hi :: lo :: rest => .ok (decodeWord (wordOfBytes hi lo), rest)
  | [_] => .error .truncated
  | [] => .error .truncated

/-- The 4 bits of a register index (R71). -/
def regBits (r : Reg) : Nibble := BitVec.ofFin r

/-- Format FA: family, nnn (R72). -/
def encodeFA (op : Nibble) (nnn : Addr) : Word := op ++ nnn

/-- Format FXK: family, x, kk; also format FX, whose kk is the sub-opcode (R72). -/
def encodeFXK (op : Nibble) (x : Reg) (kk : Byte) : Word := op ++ regBits x ++ kk

/-- Formats FXY and FXYN: family, x, y, n (R72). -/
def encodeFXYN (op : Nibble) (x y : Reg) (n : Nibble) : Word := op ++ regBits x ++ regBits y ++ n

/-- The word of an instruction, from the patterns of R72 and R84. -/
def encode : Instr → Word
  | .cls => 0x00E0#16
  | .ret => 0x00EE#16
  | .sysNnn nnn => encodeFA 0x0 nnn
  | .jpNnn nnn => encodeFA 0x1 nnn
  | .callNnn nnn => encodeFA 0x2 nnn
  | .seVxKk x kk => encodeFXK 0x3 x kk
  | .sneVxKk x kk => encodeFXK 0x4 x kk
  | .seVxVy x y => encodeFXYN 0x5 x y 0x0
  | .ldVxKk x kk => encodeFXK 0x6 x kk
  | .addVxKk x kk => encodeFXK 0x7 x kk
  | .ldVxVy x y => encodeFXYN 0x8 x y 0x0
  | .orVxVy x y => encodeFXYN 0x8 x y 0x1
  | .andVxVy x y => encodeFXYN 0x8 x y 0x2
  | .xorVxVy x y => encodeFXYN 0x8 x y 0x3
  | .addVxVy x y => encodeFXYN 0x8 x y 0x4
  | .subVxVy x y => encodeFXYN 0x8 x y 0x5
  | .shrVx x y => encodeFXYN 0x8 x y 0x6
  | .subnVxVy x y => encodeFXYN 0x8 x y 0x7
  | .shlVx x y => encodeFXYN 0x8 x y 0xE
  | .sneVxVy x y => encodeFXYN 0x9 x y 0x0
  | .ldINnn nnn => encodeFA 0xA nnn
  | .jpV0Nnn nnn => encodeFA 0xB nnn
  | .rndVxKk x kk => encodeFXK 0xC x kk
  | .drwVxVyN x y n => encodeFXYN 0xD x y n
  | .skpVx x => encodeFXK 0xE x 0x9E
  | .sknpVx x => encodeFXK 0xE x 0xA1
  | .ldVxDt x => encodeFXK 0xF x 0x07
  | .ldVxK x => encodeFXK 0xF x 0x0A
  | .ldDtVx x => encodeFXK 0xF x 0x15
  | .ldStVx x => encodeFXK 0xF x 0x18
  | .addIVx x => encodeFXK 0xF x 0x1E
  | .ldFVx x => encodeFXK 0xF x 0x29
  | .ldBVx x => encodeFXK 0xF x 0x33
  | .ldMemVx x => encodeFXK 0xF x 0x55
  | .ldVxMem x => encodeFXK 0xF x 0x65
  | .noop w => w

/-- A word as spec/opcode_table.json numbers its bits: bit 0 is the least significant bit of the one 16-bit word, and
every bit above nbits is 0. -/
def tableWord (nbits w : Nat) : Word := BitVec.ofNat 16 (w % 2 ^ nbits)

/-- The instruction the decoder reads from the bytes of a table word, laid out in address order. -/
def decodeTableWord (nbits w : Nat) : Option Instr :=
  match decode (bytesOfWord (tableWord nbits w)) with
  | .ok (i, _) => some i
  | .error _ => none

end Sys2Proof
end

