-- ==== Sys2Proof/Config.lean ====
section
/-! DEFINITION. The block's fixed parameters (spec/00_scope.md R6) and its open ones (R7): the default FONT table, the
byte of power-on memory that State.reset reads, the free random byte; and of SCHEDULE the events it is made of and the free
ones it can go on with, State holding the schedule itself. -/

namespace Sys2Proof.Machine

/-- An event of one of the three agents (R5, R59, R196). -/
inductive Event where
  /-- STEP: the engine executes one instruction (R81). -/
  | step
  /-- TICK: the timer unit decrements DT and ST (R189). -/
  | tick
  /-- RESET (R211). -/
  | reset
  /-- LOAD (R57). -/
  | load (address : Word) (bytes : List Byte)
  /-- The host changes the key snapshot (R33, R195). -/
  | setKeys (k : Word)
  /-- The host reads the frame buffer (R59, R193). -/
  | readFrame
  /-- DIRTY_ACK (R194). -/
  | dirtyAck
  deriving DecidableEq, Repr, Inhabited

end Sys2Proof.Machine

namespace Sys2Proof.Config

/-- MEM_SIZE: addresses 0x000-0xFFF (R6, R45). -/
def memSize : Nat := 4096

/-- FONT_BASE: glyph N stands at FONT_BASE + 5*N (R6, R47). -/
def fontBase : Nat := 0x000

/-- GLYPH_BYTES (R6, 90_conflicts.md C1). -/
def glyphBytes : Nat := 5

/-- The font's size in bytes: 16 glyphs of 5 bytes (R6, R47). -/
def fontBytes : Nat := 80

/-- PROGRAM_START, the constant reset entry point (R6, R213). -/
def programStart : Word := 0x200#16

/-- A FONT table: 16 glyphs of 5 bytes each (R7, R47). -/
abbrev Font := Vector (Vector Byte 5) 16

/-- Glyphs 0 to 7 of the default FONT (R48). -/
def defaultGlyphsLow : Vector (Vector Byte 5) 8 :=
  #v[#v[0xF0, 0x90, 0x90, 0x90, 0xF0], #v[0x20, 0x60, 0x20, 0x20, 0x70],
     #v[0xF0, 0x10, 0xF0, 0x80, 0xF0], #v[0xF0, 0x10, 0xF0, 0x10, 0xF0],
     #v[0x90, 0x90, 0xF0, 0x10, 0x10], #v[0xF0, 0x80, 0xF0, 0x10, 0xF0],
     #v[0xF0, 0x80, 0xF0, 0x90, 0xF0], #v[0xF0, 0x10, 0x20, 0x40, 0x40]]

/-- Glyphs 8 to F of the default FONT (R48). -/
def defaultGlyphsHigh : Vector (Vector Byte 5) 8 :=
  #v[#v[0xF0, 0x90, 0xF0, 0x90, 0xF0], #v[0xF0, 0x90, 0xF0, 0x10, 0xF0],
     #v[0xF0, 0x90, 0xF0, 0x90, 0x90], #v[0xE0, 0x90, 0xE0, 0x90, 0xE0],
     #v[0xF0, 0x80, 0x80, 0x80, 0xF0], #v[0xE0, 0x90, 0x90, 0x90, 0xE0],
     #v[0xF0, 0x80, 0xF0, 0x80, 0xF0], #v[0xF0, 0x80, 0xF0, 0x80, 0x80]]

/-- PRESUMED (unsafe where a claim reads it; log 4): the default value of the parameter FONT, the conventional hex font
that R48 tabulates from general knowledge. State.construct takes any other table. -/
def defaultFont : Font := defaultGlyphsLow ++ defaultGlyphsHigh

/-- DESIGN CHOICE (unsafe; log 3): the byte State.reset's memory reads at 0x050-0xFFF, where the spec has the open
parameter POWER_ON_MEMORY (R7, R63). State.construct takes any other contents. -/
def powerOnByte : Byte := 0x00

/-- The parameter RAND (R7, R13): the byte of the n-th draw, a FREE VALUE with no body and no law (log 2). -/
opaque rand : Nat → Byte

/-- The infinite part of the parameter SCHEDULE (R7), where State.later leaves it free: the n-th event of it, a FREE VALUE
with no body and no law (log 1). -/
opaque scheduled : Nat → Machine.Event

end Sys2Proof.Config
end

