-- ==== Sys2Proof/Machine/State.lean ====
section
/-! DEFINITION. The block's state as plain data (spec/10_state.md), its construction value (R40), and the reasons a step
of the model can stop. -/

namespace Sys2Proof.Machine

/-- RUNSTATE (R32). Code 3 never occurs, and no constructor stands for it. -/
inductive RunState where
  | running
  /-- The last step executed Fx0A and found no key pressed. -/
  | waiting
  /-- A fault was raised and not yet cleared by reset. -/
  | faulted
  deriving DecidableEq, Repr

/-- FAULT_CODE (R32, R180). Codes 6 and 7 never occur, and no constructor stands for them. -/
inductive FaultCode where
  | none
  | stackOverflow
  | stackUnderflow
  | fetchAddress
  | dataAddress
  | keyIndex
  deriving DecidableEq, Repr

/-- The LOAD port's result (R57, R196). -/
inductive LoadResult where
  | ok
  | addressError
  deriving DecidableEq, Repr

/-- What comes after the events that State.schedule lists: SCHEDULE is any finite or infinite sequence (R7). -/
inductive Later where
  /-- No event: the schedule is finite and ends with the listed ones. -/
  | ended
  /-- The events first, rest, first, rest, ... without end. -/
  | repeats (first : Event) (rest : List Event)
  /-- Any events at all, the n-th of them and those after it: the free value Config.scheduled. -/
  | free (n : Nat)
  deriving DecidableEq, Repr

/-- FB: 32 rows of 64 one-bit pixels, FB[y][x] (R9, R31). -/
abbrev FrameBuffer := Vector (Vector Bool 64) 32

/-- Memory as (address, byte) cells in one canonical form (Memory.wf, in Machine/Ops.lean). -/
abbrev Memory := List Host.Cell

/-- The STATUS port's four fields at their widths (R32, R196). -/
structure Status where
  runState : BitVec 2
  faultCode : BitVec 3
  faultPc : Word
  faultOp : Word
  deriving DecidableEq, Repr

/-- Everything the spec gives the block, and four fields of the model's own at the end. -/
structure State where
  /-- V0-VF; v[15] is VF (R20, R21). -/
  v : Vector Byte 16
  /-- I (R23). -/
  i : Word
  /-- PC (R24). -/
  pc : Word
  /-- SP, the index of the entry most recently pushed (R28). -/
  sp : Nibble
  /-- STACK (R27). -/
  stack : Vector Word 16
  /-- DT (R29). -/
  dt : Byte
  /-- ST (R30). -/
  st : Byte
  /-- FB (R31). -/
  fb : FrameBuffer
  /-- DIRTY (R31). -/
  dirty : Bool
  /-- RUNSTATE (R32). -/
  runState : RunState
  /-- FAULT_CODE (R32). -/
  faultCode : FaultCode
  /-- FAULT_PC (R32). -/
  faultPc : Word
  /-- FAULT_OP (R32). -/
  faultOp : Word
  /-- The 4096 bytes of memory (R45). -/
  mem : Memory
  /-- KEYS, an input level the host owns (R33). A step is atomic (R83), so the level it reads is its snapshot. -/
  keys : Word
  /-- The model's own: how many random bytes have been drawn; the next one is Config.rand draws (R13, log 2). -/
  draws : Nat
  /-- The model's own: SCHEDULE (R7), the events that come next, oldest first (log 1). -/
  schedule : List Event
  /-- The model's own: SCHEDULE (R7) after those events (log 1). -/
  later : Later
  /-- The model's own: the result the LOAD port gave last (R57, log 6). -/
  loadResult : Option LoadResult
  deriving DecidableEq, Repr

/-- Why a step of the model stops with a fault: never. The spec's own fault (R180) does not stop the block's other agents;
it is a next state with RUNSTATE = FAULTED (R181, R182; log 7), so no constructor is needed. -/
inductive Fault where
  deriving DecidableEq, Repr

/-- Why a step of the model gives an instruction no meaning. -/
inductive Refusal where
  /-- Raised by exec for an instruction whose arm has no meaning yet. Safe: the model stops where the hardware goes on. -/
  | notModelled (mnemonic : String)
  deriving DecidableEq, Repr

/-- The block at construction, with the default FONT, power-on memory at Config.powerOnByte, no key pressed and STEP for
ever scheduled (R40, R210; log 1, 2, 3, 4, 5, 6). No memory cell is listed: every address reads as Memory.unlisted says. -/
def State.reset : State where
  v := Vector.replicate 16 0
  i := 0
  pc := Config.programStart
  sp := 0
  stack := Vector.replicate 16 0
  dt := 0
  st := 0
  fb := Vector.replicate 32 (Vector.replicate 64 false)
  dirty := true
  runState := .running
  faultCode := .none
  faultPc := 0
  faultOp := 0
  mem := []
  keys := 0
  draws := 0
  schedule := []
  later := .repeats .step []
  loadResult := none

end Sys2Proof.Machine
end

