-- ==== Sys2Proof/Machine/Ops.lean ====
section
/-! DEFINITION. The named operations over memory, registers, stack, frame buffer and the status block, and fault entry. -/

namespace Sys2Proof.Machine

/-! ### Memory (spec/20_memory.md) -/

/-- What an address that is not listed reads as: the default font at 0x000-0x04F, power-on memory above (R46, R47, R63;
log 3, log 4). -/
def Memory.unlisted (a : Nat) : Byte :=
  if h : a < 80 then Config.defaultFont[a / 5][a % 5] else Config.powerOnByte

/-- MemRead(a, 1) (R10). Callers check a ≤ 0xFFF first (R52). -/
def Memory.read : Memory → Nat → Byte
  | [], a => Memory.unlisted a
  | (k, b) :: rest, a => if k = a then b else Memory.read rest a

/-- Put a cell in its place in the rising list, over any cell of the same address. -/
def Memory.insert : Memory → Nat → Byte → Memory
  | [], a, b => [(a, b)]
  | (k, c) :: rest, a, b =>
    if a < k then (a, b) :: (k, c) :: rest
    else if a = k then (a, b) :: rest
    else (k, c) :: Memory.insert rest a b

/-- MemWrite(a, 1, b) (R10), keeping the canonical form: a byte equal to what the unlisted address reads as is not
listed. -/
def Memory.write (m : Memory) (a : Nat) (b : Byte) : Memory :=
  if b = Memory.unlisted a then m.filter (fun c => c.1 ≠ a) else Memory.insert m a b

/-- The canonical form: addresses strictly rising, all below 4096, no cell equal to what its address reads as unlisted. -/
abbrev Memory.wf (m : Memory) : Prop :=
  m.Pairwise (fun c d => c.1 < d.1) ∧ ∀ c ∈ m, c.1 < Config.memSize ∧ c.2 ≠ Memory.unlisted c.1

/-- Bytes b[0..] to a, a+1, ... in that order (R57, R158, R159). -/
def Memory.writeBytes : Memory → Nat → List Byte → Memory
  | m, _, [] => m
  | m, a, b :: bs => Memory.writeBytes (m.write a b) (a + 1) bs

/-- The n bytes at a, a+1, ... (R132, R160). -/
def Memory.readBytes (m : Memory) (a n : Nat) : List Byte := (List.range n).map (fun r => m.read (a + r))

/-- Whether the n bytes at a all lie in 0x000-0xFFF; no check when n = 0 (R52, R53, R54). -/
def rangeOk (a n : Nat) : Bool := n == 0 || decide (a + n - 1 ≤ 0xFFF)

/-! ### Registers and stack (spec/10_state.md) -/

/-- V[x] <- b (R9, R20). -/
def State.setV (s : State) (x : Reg) (b : Byte) : State := { s with v := s.v.set x b }

/-- VF <- f, the flag as 1 or 0 (R21). -/
def State.setFlag (s : State) (f : Bool) : State := s.setV 15 (if f then 0x01 else 0x00)

/-- V[r] <- MemRead(a + r, 1) for r in 0..x (R160). -/
def State.loadRegs (s : State) (x : Reg) (a : Nat) : State :=
  { s with v := Vector.ofFn (fun r => if r ≤ x then s.mem.read (a + r.val) else s.v[r]) }

/-- V[0..x], in order (R159). -/
def State.regsUpTo (s : State) (x : Reg) : List Byte := s.v.toList.take (x.val + 1)

/-- SP <- SP + 1; STACK[SP] <- w (R28, R94). Callers check SP ≠ 15 first. -/
def State.push (s : State) (w : Word) : State :=
  { s with sp := s.sp + 1, stack := s.stack.set (s.sp + 1).toNat w }

/-- SP <- SP - 1, the entry keeping its value (R28, R92). Callers check SP ≠ 0 first. -/
def State.pop (s : State) : State := { s with sp := s.sp - 1 }

/-- STACK[SP] (R28). -/
def State.stackTop (s : State) : Word := s.stack[s.sp.toNat]

/-- PC <- target (R9). -/
def State.setPc (s : State) (target : Word) : State := { s with pc := target }

/-- PC <- PC + 2 where the condition holds: a skip, at handler entry (R24, R95). -/
def State.skipIf (s : State) (c : Bool) : State := if c then s.setPc (s.pc + 2) else s

/-! ### Frame buffer and the sprite unit (spec/42_index_random_draw.md R132, R133) -/

/-- All pixels 0 (R91, R211). -/
def FrameBuffer.blank : FrameBuffer := Vector.replicate 32 (Vector.replicate 64 false)

/-- FB[py][px] <- FB[py][px] ^ 1, and c <- 1 when that pixel was 1 (R132). -/
def FrameBuffer.plot (acc : FrameBuffer × Bool) (py : Fin 32) (px : Fin 64) : FrameBuffer × Bool :=
  (acc.1.set py (acc.1[py].set px (!acc.1[py][px])), acc.2 || acc.1[py][px])

/-- The first m columns of sprite row b at row y, left to right: bit 7 - col goes to column (x0 + col) mod 64 of row
y mod 32 (R132, R133). -/
def FrameBuffer.drawColumns (b : Byte) (x0 y : Nat) : Nat → FrameBuffer × Bool → FrameBuffer × Bool
  | 0, acc => acc
  | col + 1, acc =>
    let before := FrameBuffer.drawColumns b x0 y col acc
    if b.getLsbD (7 - col) then FrameBuffer.plot before (Fin.ofNat 32 y) (Fin.ofNat 64 (x0 + col)) else before

/-- One sprite row: 8 columns (R132). -/
def FrameBuffer.drawRow (b : Byte) (x0 y : Nat) (acc : FrameBuffer × Bool) : FrameBuffer × Bool :=
  FrameBuffer.drawColumns b x0 y 8 acc

/-- The sprite's rows at rows y, y + 1, ... (R132). -/
def FrameBuffer.drawRows : List Byte → Nat → Nat → FrameBuffer × Bool → FrameBuffer × Bool
  | [], _, _, acc => acc
  | b :: bs, x0, y, acc => FrameBuffer.drawRows bs x0 (y + 1) (FrameBuffer.drawRow b x0 y acc)

/-- The whole draw: the new frame buffer, and whether a set pixel was turned off (R132). -/
def FrameBuffer.drawSprite (fb : FrameBuffer) (rows : List Byte) (x0 y0 : Nat) : FrameBuffer × Bool :=
  FrameBuffer.drawRows rows x0 y0 (fb, false)

/-! ### The step cycle around a handler (spec/30_encoding.md R81) and fault entry (spec/60_exceptions.md R181) -/

/-- The state at handler entry: PC <- a + 2, RUNSTATE <- RUNNING (R11, R81). The sum is modulo 2^16, which a fetched
instruction never reaches (R26; log 9). -/
def handlerEntry (s : State) : State := { s with pc := s.pc + 2, runState := .running }

/-- Fault entry, on the state s at the start of the step, whose PC is the faulting instruction's address a, with its word w
(0x0000 for FETCH_ADDRESS): the status block is written and nothing else changes, PC included (R181). The way back is
RESET alone (resetEvent, R183). -/
def takeFault (c : FaultCode) (w : Word) (s : State) : State :=
  { s with runState := .faulted, faultCode := c, faultPc := s.pc, faultOp := w }

/-- The fetch's range check fails: a + 1 > 0xFFF (R52, R81). -/
def fetchOutOfRange (s : State) : Bool := decide (s.pc.toNat + 1 > 0xFFF)

/-- Fetch(a): the big-endian word at PC and PC + 1 (R10, R49). -/
def fetchWord (s : State) : Word := wordOfBytes (s.mem.read s.pc.toNat) (s.mem.read (s.pc.toNat + 1))

end Sys2Proof.Machine
end

