-- ==== Sys2Proof/Machine/Operands.lean ====
section
/-! DEFINITION. The operand values an instruction computes with: zero extension (spec/30_encoding.md R73), the key snapshot
(spec/43_keys_misc.md), and the decimal digits of LD B. -/

namespace Sys2Proof.Machine

/-- nnn zero-extended into PC or I (R73). -/
def addrOperand (nnn : Addr) : Word := nnn.zeroExtend 16

/-- A register's byte zero-extended to 16 bits, an addend of PC or I (R99, R156). -/
def wordOfByte (b : Byte) : Word := b.zeroExtend 16

/-- V[x] names no key: V[x] > 15 (R150, R151). -/
def keyIndexBad (b : Byte) : Bool := decide (b.toNat > 15)

/-- K[k], bit k of the key snapshot (R33). -/
def keyPressed (keys : Word) (k : Byte) : Bool := keys.getLsbD k.toNat

/-- The highest pressed key below n, looked for from the top. -/
def highestKeyBelow (keys : Word) : Nat → Option Byte
  | 0 => none
  | n + 1 => if keys.getLsbD n then some (BitVec.ofNat 8 n) else highestKeyBelow keys n

/-- max k with K[k] = 1, none when no key is pressed (R153, 90_conflicts.md C3). -/
def highestKey (keys : Word) : Option Byte := highestKeyBelow keys 16

/-- FONT_BASE + 5 * V[x], with no mask (R157). -/
def glyphAddress (b : Byte) : Word := BitVec.ofNat 16 (Config.fontBase + Config.glyphBytes * b.toNat)

/-- Hundreds, tens and units of V[x] (R158). -/
def bcdDigits (b : Byte) : List Byte :=
  [BitVec.ofNat 8 (b.toNat / 100), BitVec.ofNat 8 (b.toNat / 10 % 10), BitVec.ofNat 8 (b.toNat % 10)]

end Sys2Proof.Machine
end

