-- ==== Sys2Proof/Machine/IndexRandomDraw.lean ====
section
/-! DEFINITION. Index, random and draw (spec/42_index_random_draw.md). -/

namespace Sys2Proof.Machine

/-- LD I, nnn (R130). -/
def execLdINnn (nnn : Addr) (s : State) : Host.Outcome State Fault Refusal :=
  .next { handlerEntry s with i := addrOperand nnn }

/-- RND Vx, kk: a fresh draw AND kk; the draw is the free value Config.rand draws, and the counter moves on so that the next
draw is another one (R131, R13; log 2). -/
def execRndVxKk (x : Reg) (kk : Byte) (s : State) : Host.Outcome State Fault Refusal :=
  .next ({ handlerEntry s with draws := s.draws + 1 }.setV x (Config.rand s.draws &&& kk))

/-- DRW Vx, Vy, n: DATA_ADDRESS when a sprite byte lies beyond 0xFFF, else the XOR draw at (V[x], V[y]), VF <- collision,
DIRTY <- 1 (R132). -/
def execDrwVxVyN (x y : Reg) (n : Nibble) (s : State) : Host.Outcome State Fault Refusal :=
  if rangeOk s.i.toNat n.toNat then
    let drawn := s.fb.drawSprite (s.mem.readBytes s.i.toNat n.toNat) s.v[x].toNat s.v[y].toNat
    .next ({ handlerEntry s with fb := drawn.1, dirty := true }.setFlag drawn.2)
  else .next (takeFault .dataAddress (encode (.drwVxVyN x y n)) s)

end Sys2Proof.Machine
end

