-- ==== Sys2Proof/Machine/KeysMisc.lean ====
section
/-! DEFINITION. Keys, timers, index arithmetic and block transfers (spec/43_keys_misc.md). -/

namespace Sys2Proof.Machine

/-- SKP Vx: KEY_INDEX when V[x] > 15, else skip if that key is pressed (R150). -/
def execSkpVx (x : Reg) (s : State) : Host.Outcome State Fault Refusal :=
  if keyIndexBad s.v[x] then .next (takeFault .keyIndex (encode (.skpVx x)) s)
  else .next ((handlerEntry s).skipIf (keyPressed s.keys s.v[x]))

/-- SKNP Vx: KEY_INDEX when V[x] > 15, else skip if that key is not pressed (R151). -/
def execSknpVx (x : Reg) (s : State) : Host.Outcome State Fault Refusal :=
  if keyIndexBad s.v[x] then .next (takeFault .keyIndex (encode (.sknpVx x)) s)
  else .next ((handlerEntry s).skipIf (!keyPressed s.keys s.v[x]))

/-- LD Vx, DT (R152). -/
def execLdVxDt (x : Reg) (s : State) : Host.Outcome State Fault Refusal :=
  .next ((handlerEntry s).setV x s.dt)

/-- LD Vx, K: with no key pressed PC <- a and RUNSTATE <- WAITING, else V[x] <- the highest pressed key (R153). -/
def execLdVxK (x : Reg) (s : State) : Host.Outcome State Fault Refusal :=
  match highestKey s.keys with
  | none => .next { handlerEntry s with pc := s.pc, runState := .waiting }
  | some k => .next ((handlerEntry s).setV x k)

/-- LD DT, Vx (R154). -/
def execLdDtVx (x : Reg) (s : State) : Host.Outcome State Fault Refusal :=
  .next { handlerEntry s with dt := s.v[x] }

/-- LD ST, Vx (R155). -/
def execLdStVx (x : Reg) (s : State) : Host.Outcome State Fault Refusal :=
  .next { handlerEntry s with st := s.v[x] }

/-- ADD I, Vx: modulo 2^16, no 12-bit mask, no flag (R156). -/
def execAddIVx (x : Reg) (s : State) : Host.Outcome State Fault Refusal :=
  .next { handlerEntry s with i := s.i + wordOfByte s.v[x] }

/-- LD F, Vx: I <- 5 * V[x], not masked (R157). -/
def execLdFVx (x : Reg) (s : State) : Host.Outcome State Fault Refusal :=
  .next { handlerEntry s with i := glyphAddress s.v[x] }

/-- LD B, Vx: DATA_ADDRESS when I + 2 > 0xFFF, else the three decimal digits to I, I + 1, I + 2 (R158). -/
def execLdBVx (x : Reg) (s : State) : Host.Outcome State Fault Refusal :=
  if rangeOk s.i.toNat 3 then
    .next { handlerEntry s with mem := s.mem.writeBytes s.i.toNat (bcdDigits s.v[x]) }
  else .next (takeFault .dataAddress (encode (.ldBVx x)) s)

/-- LD [I], Vx: DATA_ADDRESS when I + x > 0xFFF, else V[0..x] to I, ..., I + x (R159). -/
def execLdMemVx (x : Reg) (s : State) : Host.Outcome State Fault Refusal :=
  if rangeOk s.i.toNat (x.val + 1) then
    .next { handlerEntry s with mem := s.mem.writeBytes s.i.toNat (s.regsUpTo x) }
  else .next (takeFault .dataAddress (encode (.ldMemVx x)) s)

/-- LD Vx, [I]: DATA_ADDRESS when I + x > 0xFFF, else V[0..x] from I, ..., I + x (R160). -/
def execLdVxMem (x : Reg) (s : State) : Host.Outcome State Fault Refusal :=
  if rangeOk s.i.toNat (x.val + 1) then .next ((handlerEntry s).loadRegs x s.i.toNat)
  else .next (takeFault .dataAddress (encode (.ldVxMem x)) s)

end Sys2Proof.Machine
end

