-- ==== Sys2Proof/Machine/Flags.lean ====
section
/-! DEFINITION. The values VF takes as a flag (spec/10_state.md R21), each from pre-state operands. The sixth, collision, is
FrameBuffer.drawSprite's. -/

namespace Sys2Proof.Machine

/-- 8xy4: V[x] + V[y] ≥ 256 before truncation (R116). -/
def carryFlag (a b : Byte) : Bool := decide (a.toNat + b.toNat ≥ 256)

/-- 8xy5, 8xy7: strictly greater, so equal operands give 0 (R117, R119, 90_conflicts.md C4). -/
def greaterFlag (a b : Byte) : Bool := decide (a.toNat > b.toNat)

/-- 8xy6: the old bit 0 (R118). -/
def shiftRightFlag (a : Byte) : Bool := a.getLsbD 0

/-- 8xyE: the old bit 7 (R120). -/
def shiftLeftFlag (a : Byte) : Bool := a.getLsbD 7

end Sys2Proof.Machine
end

