-- ==== Sys2Proof/Machine/LoadAlu.lean ====
section
/-! DEFINITION. Register loads and the ALU family (spec/41_load_alu.md). Every operand is read in the pre-state; a flag
writer writes V[x] and then VF, so for x = 0xF the flag wins (R21). -/

namespace Sys2Proof.Machine

/-- LD Vx, kk (R110). -/
def execLdVxKk (x : Reg) (kk : Byte) (s : State) : Host.Outcome State Fault Refusal :=
  .next ((handlerEntry s).setV x kk)

/-- ADD Vx, kk: modulo 256, no flag (R111). -/
def execAddVxKk (x : Reg) (kk : Byte) (s : State) : Host.Outcome State Fault Refusal :=
  .next ((handlerEntry s).setV x (s.v[x] + kk))

/-- LD Vx, Vy (R112). -/
def execLdVxVy (x y : Reg) (s : State) : Host.Outcome State Fault Refusal :=
  .next ((handlerEntry s).setV x s.v[y])

/-- OR Vx, Vy (R113). -/
def execOrVxVy (x y : Reg) (s : State) : Host.Outcome State Fault Refusal :=
  .next ((handlerEntry s).setV x (s.v[x] ||| s.v[y]))

/-- AND Vx, Vy (R114). -/
def execAndVxVy (x y : Reg) (s : State) : Host.Outcome State Fault Refusal :=
  .next ((handlerEntry s).setV x (s.v[x] &&& s.v[y]))

/-- XOR Vx, Vy (R115). -/
def execXorVxVy (x y : Reg) (s : State) : Host.Outcome State Fault Refusal :=
  .next ((handlerEntry s).setV x (s.v[x] ^^^ s.v[y]))

/-- ADD Vx, Vy: the sum modulo 256, then VF <- carry (R116). -/
def execAddVxVy (x y : Reg) (s : State) : Host.Outcome State Fault Refusal :=
  .next (((handlerEntry s).setV x (s.v[x] + s.v[y])).setFlag (carryFlag s.v[x] s.v[y]))

/-- SUB Vx, Vy: the difference modulo 256, then VF <- V[x] > V[y] (R117). -/
def execSubVxVy (x y : Reg) (s : State) : Host.Outcome State Fault Refusal :=
  .next (((handlerEntry s).setV x (s.v[x] - s.v[y])).setFlag (greaterFlag s.v[x] s.v[y]))

/-- SHR Vx: V[x] >> 1, then VF <- the old bit 0; V[y] is not read (R118). -/
def execShrVx (x _y : Reg) (s : State) : Host.Outcome State Fault Refusal :=
  .next (((handlerEntry s).setV x (s.v[x] >>> 1)).setFlag (shiftRightFlag s.v[x]))

/-- SUBN Vx, Vy: V[y] - V[x] modulo 256, then VF <- V[y] > V[x] (R119). -/
def execSubnVxVy (x y : Reg) (s : State) : Host.Outcome State Fault Refusal :=
  .next (((handlerEntry s).setV x (s.v[y] - s.v[x])).setFlag (greaterFlag s.v[y] s.v[x]))

/-- SHL Vx: V[x] << 1 modulo 256, then VF <- the old bit 7; V[y] is not read (R120). -/
def execShlVx (x _y : Reg) (s : State) : Host.Outcome State Fault Refusal :=
  .next (((handlerEntry s).setV x (s.v[x] <<< 1)).setFlag (shiftLeftFlag s.v[x]))

end Sys2Proof.Machine
end

