-- ==== Sys2Proof/Machine/SystemFlow.lean ====
section
/-! DEFINITION. System and control flow (spec/40_system_flow.md), and the no-op space (spec/30_encoding.md R77).
Each meaning takes the state at the start of the step, where PC is the instruction's address a, and works on
handlerEntry of it, where PC is a + 2 (R11). A fault is taken on the former, so it discards the step's writes (R181). -/

namespace Sys2Proof.Machine

/-- SYS nnn: a no-op (R90). -/
def execSysNnn (_nnn : Addr) (s : State) : Host.Outcome State Fault Refusal :=
  .next (handlerEntry s)

/-- A word of the no-op space: fetch and PC <- a + 2 only (R77). -/
def execNoop (_w : Word) (s : State) : Host.Outcome State Fault Refusal :=
  .next (handlerEntry s)

/-- CLS: every pixel 0 and DIRTY <- 1, whatever the frame buffer held (R91). -/
def execCls (s : State) : Host.Outcome State Fault Refusal :=
  .next { handlerEntry s with fb := FrameBuffer.blank, dirty := true }

/-- RET: STACK_UNDERFLOW at SP = 0, else PC <- STACK[SP], SP <- SP - 1 (R92). -/
def execRet (s : State) : Host.Outcome State Fault Refusal :=
  if s.sp = 0 then .next (takeFault .stackUnderflow (encode .ret) s)
  else .next ((handlerEntry s).pop.setPc s.stackTop)

/-- JP nnn (R93). -/
def execJpNnn (nnn : Addr) (s : State) : Host.Outcome State Fault Refusal :=
  .next ((handlerEntry s).setPc (addrOperand nnn))

/-- CALL nnn: STACK_OVERFLOW at SP = 15, else push a + 2 and jump (R94). -/
def execCallNnn (nnn : Addr) (s : State) : Host.Outcome State Fault Refusal :=
  if s.sp = 15 then .next (takeFault .stackOverflow (encode (.callNnn nnn)) s)
  else .next (((handlerEntry s).push (handlerEntry s).pc).setPc (addrOperand nnn))

/-- SE Vx, kk (R95). -/
def execSeVxKk (x : Reg) (kk : Byte) (s : State) : Host.Outcome State Fault Refusal :=
  .next ((handlerEntry s).skipIf (s.v[x] == kk))

/-- SNE Vx, kk (R96). -/
def execSneVxKk (x : Reg) (kk : Byte) (s : State) : Host.Outcome State Fault Refusal :=
  .next ((handlerEntry s).skipIf (s.v[x] != kk))

/-- SE Vx, Vy (R97). -/
def execSeVxVy (x y : Reg) (s : State) : Host.Outcome State Fault Refusal :=
  .next ((handlerEntry s).skipIf (s.v[x] == s.v[y]))

/-- SNE Vx, Vy (R98). -/
def execSneVxVy (x y : Reg) (s : State) : Host.Outcome State Fault Refusal :=
  .next ((handlerEntry s).skipIf (s.v[x] != s.v[y]))

/-- JP V0, nnn: a 16-bit sum with no 12-bit mask (R99). -/
def execJpV0Nnn (nnn : Addr) (s : State) : Host.Outcome State Fault Refusal :=
  .next ((handlerEntry s).setPc (addrOperand nnn + wordOfByte s.v[0]))

end Sys2Proof.Machine
end

