-- ==== Sys2Proof/Machine/Events.lean ====
section
/-! DEFINITION. The events that are not STEP, construction, and the output ports (spec/60_exceptions.md §3 and §4,
spec/70_reset_and_hazards.md §1, spec/20_memory.md §4). -/

namespace Sys2Proof.Machine

/-- One count down, saturating at 0 (R189). -/
def countDown (b : Byte) : Byte := if b = 0 then 0 else b - 1

/-- TICK: both timers count down, in every RUNSTATE; nothing else changes (R189, R191). -/
def tickEvent (s : State) : State := { s with dt := countDown s.dt, st := countDown s.st }

/-- RESET: exactly the writes of R211. Memory and KEYS stay (R212), and so do the model's own fields: above all draws, since
a reset does not make the random source repeat itself (log 2). -/
def resetEvent (s : State) : State :=
  { s with
    v := Vector.replicate 16 0
    i := 0
    pc := Config.programStart
    sp := 0
    stack := Vector.replicate 16 0
    dt := 0
    st := 0
    fb := FrameBuffer.blank
    dirty := true
    runState := .running
    faultCode := .none
    faultPc := 0
    faultOp := 0 }

/-- LOAD's check and its effect on memory: rejected iff address + L > 4096, and then nothing is written (R57, R58). -/
def loadPort (m : Memory) (address : Word) (bytes : List Byte) : LoadResult × Memory :=
  if address.toNat + bytes.length > Config.memSize then (.addressError, m)
  else (.ok, m.writeBytes address.toNat bytes)

/-- LOAD: memory as loadPort says, and the port's result; no register, no status field (R58). -/
def loadEvent (address : Word) (bytes : List Byte) (s : State) : State :=
  { s with mem := (loadPort s.mem address bytes).2, loadResult := some (loadPort s.mem address bytes).1 }

/-- The host changes KEYS (R33, R195). -/
def setKeysEvent (k : Word) (s : State) : State := { s with keys := k }

/-- The host reads the frame buffer: the port is read-only, so nothing changes (R193). -/
def readFrameEvent (s : State) : State := s

/-- DIRTY_ACK: DIRTY <- 0 and nothing else (R194). -/
def dirtyAckEvent (s : State) : State := { s with dirty := false }

/-- FONT as 80 bytes in address order (R47). -/
def fontBytes (font : Config.Font) : List Byte := font.toList.flatMap (fun g => g.toList)

/-- Memory at construction, for any FONT and any POWER_ON_MEMORY (R7, R63, R210). -/
def Memory.construct (font : Config.Font) (powerOn : Nat → Byte) : Memory :=
  Memory.writeBytes
    (Memory.writeBytes [] Config.fontBytes ((List.range' Config.fontBytes (Config.memSize - Config.fontBytes)).map powerOn))
    Config.fontBase (fontBytes font)

/-- The block at construction with any FONT, any POWER_ON_MEMORY, any KEYS and any SCHEDULE (R7, R210, R40); RAND is
Config.rand. State.reset is the case of the default FONT, power-on bytes Config.powerOnByte, no key pressed and STEP for ever. -/
def State.construct (font : Config.Font) (powerOn : Nat → Byte) (keys : Word) (schedule : List Event) (later : Later) : State :=
  { State.reset with mem := Memory.construct font powerOn, keys := keys, schedule := schedule, later := later }

/-- RUNSTATE's code (R32). -/
def runStateCode : RunState → BitVec 2
  | .running => 0
  | .waiting => 1
  | .faulted => 2

/-- FAULT_CODE's code (R32, R180). -/
def faultCodeBits : FaultCode → BitVec 3
  | .none => 0
  | .stackOverflow => 1
  | .stackUnderflow => 2
  | .fetchAddress => 3
  | .dataAddress => 4
  | .keyIndex => 5

/-- The port STATUS (R32, R196). -/
def statusPort (s : State) : Status :=
  { runState := runStateCode s.runState, faultCode := faultCodeBits s.faultCode, faultPc := s.faultPc, faultOp := s.faultOp }

/-- The port FB (R193). -/
def framePort (s : State) : FrameBuffer := s.fb

/-- The port DIRTY (R193). -/
def dirtyPort (s : State) : Bool := s.dirty

/-- The port ST_OUT (R192). -/
def soundPort (s : State) : Byte := s.st

end Sys2Proof.Machine
end

