-- ==== Sys2Proof/Machine/Cycle.lean ====
section
/-! DEFINITION. The STEP event (spec/30_encoding.md R81) and the choice of the next event (spec/00_scope.md R5, R7). -/

namespace Sys2Proof.Machine

/-- STEP: nothing while FAULTED (R82); FETCH_ADDRESS when PC + 1 > 0xFFF, with FAULT_OP = 0x0000; else execute the decoded
word. PC <- a + 2, RUNSTATE <- RUNNING and the key snapshot are part of each meaning (handlerEntry; R81, R83). -/
def engineStep (s : State) : Host.Outcome State Fault Refusal :=
  if s.runState = .faulted then .next s
  else if fetchOutOfRange s then .next (takeFault .fetchAddress 0x0000#16 s)
  else exec (decodeWord (fetchWord s)) s

/-- The next event of a schedule, none when it has ended, and the schedule that is left (R7; log 1). -/
def takeEvent : List Event → Later → Option Event × List Event × Later
  | e :: rest, later => (some e, rest, later)
  | [], .ended => (none, [], .ended)
  | [], .repeats first rest => (some first, rest, .repeats first rest)
  | [], .free n => (some (Config.scheduled n), [], .free (n + 1))

/-- Which event comes next. -/
def nextEvent (s : State) : Option Event := (takeEvent s.schedule s.later).1

/-- The state with that event taken off the schedule. -/
def dueState (s : State) : State :=
  { s with schedule := (takeEvent s.schedule s.later).2.1, later := (takeEvent s.schedule s.later).2.2 }

/-- One event of one agent, as one atomic transition (R5, R59). -/
def runEvent (e : Event) (s : State) : Host.Outcome State Fault Refusal :=
  match e with
  | .step => engineStep s
  | .tick => .next (tickEvent s)
  | .reset => .next (resetEvent s)
  | .load address bytes => .next (loadEvent address bytes s)
  | .setKeys k => .next (setKeysEvent k s)
  | .readFrame => .next (readFrameEvent s)
  | .dirtyAck => .next (dirtyAckEvent s)

/-- Where the next instruction is fetched from: PC, or the program's start when no word can be fetched at PC. -/
def fetchPlace (s : State) : Word := if fetchOutOfRange s then Config.programStart else s.pc

/-- s with the word w in memory where the next STEP fetches, and that STEP due: STEP the event that comes next and for ever, as
in State.reset, the engine not FAULTED, PC fetchable. Nothing else changes (log 10). -/
def placeWord (s : State) (w : Word) : State :=
  { s with
    mem := s.mem.writeBytes (fetchPlace s).toNat (bytesOfWord w)
    pc := fetchPlace s
    runState := if s.runState = .faulted then .running else s.runState
    schedule := []
    later := .repeats .step [] }

end Sys2Proof.Machine
end

