-- ==== Sys2Proof/Machine/Step.lean ====
section
/-! DEFINITION. One step of the machine: one event (spec/00_scope.md R5, spec/20_memory.md R59). -/

namespace Sys2Proof.Machine

/-- The next event, run on the state that has it taken off the schedule. Nothing happens when the schedule has ended. -/
def step (s : State) : Host.Outcome State Fault Refusal :=
  match nextEvent s with
  | some e => runEvent e (dueState s)
  | none => .next s

/-- The word w, numbered as spec/opcode_table.json numbers its bits, where step fetches its next instruction. -/
def State.withFetchWord (s : State) (nbits w : Nat) : State := placeWord s (tableWord nbits w)

end Sys2Proof.Machine
end

