-- ==== Sys2Proof/Safety.lean ====
section
/-! DEFINITION. The terms claims are stated in: what an instruction leaves unchanged, when it faults, which pixels a sprite
covers, and the invariant every step keeps. None of them is used by the machine. -/

namespace Sys2Proof.Machine

/-- The parts of the state beside V, PC and RUNSTATE that a frame can let change. -/
inductive Part where
  | index
  | stack
  | delayTimer
  | soundTimer
  | screen
  | dirty
  | faultRecord
  | memory
  | keys
  | draws
  | schedule
  | loadResult
  deriving DecidableEq, Repr

/-- From s to t every register outside regs and every part outside parts is unchanged. PC and RUNSTATE are not framed; a
statement says their values. -/
def Frame (parts : List Part) (regs : List Reg) (s t : State) : Prop :=
  (∀ r : Reg, r ∉ regs → t.v[r] = s.v[r]) ∧
  (.index ∉ parts → t.i = s.i) ∧
  (.stack ∉ parts → t.sp = s.sp ∧ t.stack = s.stack) ∧
  (.delayTimer ∉ parts → t.dt = s.dt) ∧
  (.soundTimer ∉ parts → t.st = s.st) ∧
  (.screen ∉ parts → t.fb = s.fb) ∧
  (.dirty ∉ parts → t.dirty = s.dirty) ∧
  (.faultRecord ∉ parts → t.faultCode = s.faultCode ∧ t.faultPc = s.faultPc ∧ t.faultOp = s.faultOp) ∧
  (.memory ∉ parts → ∀ a : Nat, t.mem.read a = s.mem.read a) ∧
  (.keys ∉ parts → t.keys = s.keys) ∧
  (.draws ∉ parts → t.draws = s.draws) ∧
  (.schedule ∉ parts → t.schedule = s.schedule ∧ t.later = s.later) ∧
  (.loadResult ∉ parts → t.loadResult = s.loadResult)

/-- The step ran its instruction to the end and moved past its two bytes (R24, R81). -/
def Advanced (s t : State) : Prop := t.pc = s.pc + 2 ∧ t.runState = .running

/-- The step ran a skip: PC is a + 4 where the condition held, a + 2 where it did not (R24, R95). -/
def Skipped (taken : Prop) (s t : State) : Prop :=
  (taken → t.pc = s.pc + 4) ∧ (¬taken → t.pc = s.pc + 2) ∧ t.runState = .running

/-- The event that comes k events after the next one, if the schedule does not end before it: SCHEDULE as a sequence (R7). -/
def scheduledAt : Nat → State → Option Event
  | 0, s => nextEvent s
  | k + 1, s => scheduledAt k (dueState s)

/-- VF holds a flag: 1 where the condition holds, 0 where it does not (R21). -/
def FlagIs (c : Prop) (t : State) : Prop := (c → t.v[(15 : Reg)] = 1) ∧ (¬c → t.v[(15 : Reg)] = 0)

/-- The n bytes at a reach beyond 0xFFF; never when n = 0 (R52, R54). -/
def BeyondMemory (a n : Nat) : Prop := 0 < n ∧ a + n - 1 > 0xFFF

/-- The fault each instruction raises in the state at the start of its step, from the table of R180 and the list of R184:
none for every instruction that these do not name. -/
def FaultsWith (i : Instr) (s : State) (c : FaultCode) : Prop :=
  (∃ nnn, i = .callNnn nnn ∧ s.sp = 15 ∧ c = .stackOverflow) ∨
  (i = .ret ∧ s.sp = 0 ∧ c = .stackUnderflow) ∨
  (∃ x y n, i = .drwVxVyN x y n ∧ BeyondMemory s.i.toNat n.toNat ∧ c = .dataAddress) ∨
  (∃ x, i = .ldBVx x ∧ BeyondMemory s.i.toNat 3 ∧ c = .dataAddress) ∨
  (∃ x : Reg, (i = .ldMemVx x ∨ i = .ldVxMem x) ∧ BeyondMemory s.i.toNat (x.val + 1) ∧ c = .dataAddress) ∨
  (∃ x : Reg, (i = .skpVx x ∨ i = .sknpVx x) ∧ s.v[x].toNat > 15 ∧ c = .keyIndex)

/-- The sprite of n bytes at I, drawn from (V[x], V[y]), has a set bit on column px of row py: bit 7 - col of byte r stands
on column (V[x] + col) mod 64 of row (V[y] + r) mod 32 (R132, R133). -/
def SpriteCovers (s : State) (x y : Reg) (n : Nibble) (py : Fin 32) (px : Fin 64) : Prop :=
  ∃ r col : Nat, r < n.toNat ∧ col < 8 ∧ (s.mem.read (s.i.toNat + r)).getLsbD (7 - col) = true ∧
    (s.v[y].toNat + r) % 32 = py.val ∧ (s.v[x].toNat + col) % 64 = px.val

/-- The status block tells the truth (R32, R180, R181): with code NONE it is clear and the engine is not FAULTED; with any
other code the engine is FAULTED, PC still stands at FAULT_PC, and the state still shows the condition that FAULT_OP's
instruction, or the fetch, faulted on. -/
def FaultRecordOk (s : State) : Prop :=
  (s.faultCode = .none → s.runState ≠ .faulted ∧ s.faultPc = 0 ∧ s.faultOp = 0) ∧
  (s.faultCode ≠ .none → s.runState = .faulted ∧ s.faultPc = s.pc ∧
    ((s.faultCode = .fetchAddress ∧ s.faultOp = 0 ∧ s.pc.toNat + 1 > 0xFFF) ∨
      FaultsWith (decodeWord s.faultOp) s s.faultCode))

/-- The invariant of the block: memory in its canonical form within 0x000-0xFFF, PC at most 0x10FE and every stack entry at
most 0x1000 (R26), the status block truthful. -/
structure Inv (s : State) : Prop where
  memory : s.mem.wf
  pc : s.pc.toNat ≤ 0x10FE
  stack : ∀ j : Fin 16, s.stack[j].toNat ≤ 0x1000
  faultRecord : FaultRecordOk s

/-- The row's name in spec/opcode_table.json, of which LAWS.json is the map. -/
def mnemonic : Instr → String
  | .cls => "CLS"
  | .ret => "RET"
  | .sysNnn _ => "SYS_nnn"
  | .jpNnn _ => "JP_nnn"
  | .callNnn _ => "CALL_nnn"
  | .seVxKk _ _ => "SE_Vx__kk"
  | .sneVxKk _ _ => "SNE_Vx__kk"
  | .seVxVy _ _ => "SE_Vx__Vy"
  | .ldVxKk _ _ => "LD_Vx__kk"
  | .addVxKk _ _ => "ADD_Vx__kk"
  | .ldVxVy _ _ => "LD_Vx__Vy"
  | .orVxVy _ _ => "OR_Vx__Vy"
  | .andVxVy _ _ => "AND_Vx__Vy"
  | .xorVxVy _ _ => "XOR_Vx__Vy"
  | .addVxVy _ _ => "ADD_Vx__Vy"
  | .subVxVy _ _ => "SUB_Vx__Vy"
  | .shrVx _ _ => "SHR_Vx"
  | .subnVxVy _ _ => "SUBN_Vx__Vy"
  | .shlVx _ _ => "SHL_Vx"
  | .sneVxVy _ _ => "SNE_Vx__Vy"
  | .ldINnn _ => "LD_I__nnn"
  | .jpV0Nnn _ => "JP_V0__nnn"
  | .rndVxKk _ _ => "RND_Vx__kk"
  | .drwVxVyN _ _ _ => "DRW_Vx__Vy__n"
  | .skpVx _ => "SKP_Vx"
  | .sknpVx _ => "SKNP_Vx"
  | .ldVxDt _ => "LD_Vx__DT"
  | .ldVxK _ => "LD_Vx__K"
  | .ldDtVx _ => "LD_DT__Vx"
  | .ldStVx _ => "LD_ST__Vx"
  | .addIVx _ => "ADD_I__Vx"
  | .ldFVx _ => "LD_F__Vx"
  | .ldBVx _ => "LD_B__Vx"
  | .ldMemVx _ => "LD__I___Vx"
  | .ldVxMem _ => "LD_Vx___I"
  | .noop _ => "(no-op)"

/-- A row of spec/opcode_table.json: a word w matches it when w AND mask equals pattern. -/
structure TableRow where
  mask : Word
  pattern : Word
  name : String
  deriving DecidableEq, Repr

/-- Rows of precedence 1 whose family holds one instruction, or one of the two words of family 0. -/
def tableWholeFamilies : List TableRow :=
  [⟨0xFFFF, 0x00E0, "CLS"⟩, ⟨0xFFFF, 0x00EE, "RET"⟩, ⟨0xF000, 0x1000, "JP_nnn"⟩, ⟨0xF000, 0x2000, "CALL_nnn"⟩,
   ⟨0xF000, 0x3000, "SE_Vx__kk"⟩, ⟨0xF000, 0x4000, "SNE_Vx__kk"⟩, ⟨0xF00F, 0x5000, "SE_Vx__Vy"⟩,
   ⟨0xF000, 0x6000, "LD_Vx__kk"⟩, ⟨0xF000, 0x7000, "ADD_Vx__kk"⟩, ⟨0xF00F, 0x9000, "SNE_Vx__Vy"⟩,
   ⟨0xF000, 0xA000, "LD_I__nnn"⟩, ⟨0xF000, 0xB000, "JP_V0__nnn"⟩, ⟨0xF000, 0xC000, "RND_Vx__kk"⟩,
   ⟨0xF000, 0xD000, "DRW_Vx__Vy__n"⟩]

/-- Rows of precedence 1 of family 8. -/
def tableFamily8 : List TableRow :=
  [⟨0xF00F, 0x8000, "LD_Vx__Vy"⟩, ⟨0xF00F, 0x8001, "OR_Vx__Vy"⟩, ⟨0xF00F, 0x8002, "AND_Vx__Vy"⟩,
   ⟨0xF00F, 0x8003, "XOR_Vx__Vy"⟩, ⟨0xF00F, 0x8004, "ADD_Vx__Vy"⟩, ⟨0xF00F, 0x8005, "SUB_Vx__Vy"⟩,
   ⟨0xF00F, 0x8006, "SHR_Vx"⟩, ⟨0xF00F, 0x8007, "SUBN_Vx__Vy"⟩, ⟨0xF00F, 0x800E, "SHL_Vx"⟩]

/-- Rows of precedence 1 of families E and F. -/
def tableFamiliesEF : List TableRow :=
  [⟨0xF0FF, 0xE09E, "SKP_Vx"⟩, ⟨0xF0FF, 0xE0A1, "SKNP_Vx"⟩, ⟨0xF0FF, 0xF007, "LD_Vx__DT"⟩,
   ⟨0xF0FF, 0xF00A, "LD_Vx__K"⟩, ⟨0xF0FF, 0xF015, "LD_DT__Vx"⟩, ⟨0xF0FF, 0xF018, "LD_ST__Vx"⟩,
   ⟨0xF0FF, 0xF01E, "ADD_I__Vx"⟩, ⟨0xF0FF, 0xF029, "LD_F__Vx"⟩, ⟨0xF0FF, 0xF033, "LD_B__Vx"⟩,
   ⟨0xF0FF, 0xF055, "LD__I___Vx"⟩, ⟨0xF0FF, 0xF065, "LD_Vx___I"⟩]

/-- The rows of precedence 1, disjoint by R79. -/
def tableRows : List TableRow := tableWholeFamilies ++ tableFamily8 ++ tableFamiliesEF

/-- The rows of precedence 2 and 3: SYS, then the catch-all. -/
def tableLastRows : List TableRow := [⟨0xF000, 0x0000, "SYS_nnn"⟩, ⟨0x0000, 0x0000, "(no-op)"⟩]

/-- The word matches the row (the table's precedence_note). -/
def TableRow.matchesWord (row : TableRow) (w : Word) : Bool := w &&& row.mask == row.pattern

end Sys2Proof.Machine
end

