-- ==== Sys2Proof/Certificates/Slice0/Obligations.lean ====
section
/-! DEFINITION. What is stated about the model, for the provers. Each docstring names the rule or section it comes from. Where
it rests on a choice of the spec's writers (a row D<n> of spec/92_eei_decisions.md, or a rule the spec marks as derived), or of
the model's (a log entry), it says so, and OBLIGATIONS.json gives it the basis 'derived'.
exec takes the state at the start of the step, so s.pc is the address a of the instruction and a + 2 is s.pc + 2. -/

open Sys2Proof Sys2Proof.Machine

/-! ### The machine as a whole -/

/-- The construction state meets the invariant (basis: the construction column of R40, D5; memory, KEYS and the schedule at
the model's choices, log 1 to 5). -/
def Obligations.ResetMeetsInvariant : Prop := Inv State.reset

/-- Every event of every agent keeps the invariant, STEP among them: memory canonical, PC at most 0x10FE and stack entries at
most 0x1000 (R26, derived in the spec), and the status block truthful (R180, R181, D7). -/
def Obligations.StepKeepsInvariant : Prop :=
  ∀ s t : State, Inv s → step s = .next t → Inv t

/-- No step stops: every state has a next state (R78, R180 and R185, D7, D27; log 7). -/
def Obligations.StepAlwaysAnswersNext : Prop :=
  ∀ s : State, ∃ t : State, step s = .next t

/-- The construction column of R40 (D5, D6 in the spec; memory and KEYS at the model's choices, log 3, 4, 5). -/
def Obligations.ConstructionValues : Prop :=
  (∀ r : Reg, State.reset.v[r] = 0) ∧ State.reset.i = 0 ∧ State.reset.pc = 0x200 ∧ State.reset.sp = 0 ∧
  (∀ j : Fin 16, State.reset.stack[j] = 0) ∧ State.reset.dt = 0 ∧ State.reset.st = 0 ∧
  (∀ (py : Fin 32) (px : Fin 64), State.reset.fb[py][px] = false) ∧ State.reset.dirty = true ∧
  statusPort State.reset = { runState := 0, faultCode := 0, faultPc := 0, faultOp := 0 } ∧
  (∀ (g : Fin 16) (b : Fin 5), State.reset.mem.read (5 * g.val + b.val) = Config.defaultFont[g][b]) ∧
  (∀ a : Nat, 0x050 ≤ a → a ≤ 0xFFF → State.reset.mem.read a = 0x00) ∧ State.reset.keys = 0

/-- Construction for every value of the open parameters: glyph N of FONT at 5*N, POWER_ON_MEMORY at 0x050-0xFFF, the given
KEYS, registers as after reset (R7, R210, R47, R63; D2, D3, D4, D5), and the given SCHEDULE, whose k-th event is the k-th listed
one, and after those none, the events of a cycle in turn, or a free one (R7; D23, D28; the form is the model's, log 1). -/
def Obligations.ConstructionMemory : Prop :=
  ∀ (font : Config.Font) (powerOn : Nat → Byte) (keys : Word) (es : List Event) (later : Later) (s : State),
    s = State.construct font powerOn keys es later →
    (∀ (g : Fin 16) (b : Fin 5), s.mem.read (5 * g.val + b.val) = font[g][b]) ∧
    (∀ a : Nat, 0x050 ≤ a → a ≤ 0xFFF → s.mem.read a = powerOn a) ∧
    s.keys = keys ∧ Frame [.memory, .keys, .schedule] [] State.reset s ∧ s.pc = State.reset.pc ∧ s.runState = .running ∧
    s.mem.wf ∧
    (∀ k : Fin es.length, scheduledAt k.val s = some es[k]) ∧
    (later = .ended → ∀ k : Nat, es.length ≤ k → scheduledAt k s = none) ∧
    (∀ first rest, later = .repeats first rest → ∀ k : Nat,
      scheduledAt (es.length + k) s = (first :: rest)[k % (rest.length + 1)]?) ∧
    (∀ n : Nat, later = .free n → ∀ k : Nat, scheduledAt (es.length + k) s = some (Config.scheduled (n + k)))

/-- Memory has one canonical form: two memories in it that read the same at every address are the same list (the model's
form of R45's 4096 locations). -/
def Obligations.CanonicalMemoryIsItsReads : Prop :=
  ∀ m m' : Memory, m.wf → m'.wf → (∀ a : Nat, m.read a = m'.read a) → m = m'

/-! ### Encoding -/

/-- Words written out bit by bit from the patterns of R72 and R76, one or more for each family and format. -/
def Obligations.SampleWordsDecode : Prop :=
  decodeWord 0b0000000011100000 = .cls ∧ decodeWord 0b0000000011101110 = .ret ∧
  decodeWord 0b0000000100100011 = .sysNnn 0x123 ∧ decodeWord 0b0010001000010000 = .callNnn 0x210 ∧
  decodeWord 0b0101000100100000 = .seVxVy 1 2 ∧ decodeWord 0b0110101001000010 = .ldVxKk 10 0x42 ∧
  decodeWord 0b1000111100010100 = .addVxVy 15 1 ∧ decodeWord 0b1000001000001110 = .shlVx 2 0 ∧
  decodeWord 0b1101000100100101 = .drwVxVyN 1 2 5 ∧ decodeWord 0b1110010110011110 = .skpVx 5 ∧
  decodeWord 0b1111001001010101 = .ldMemVx 2 ∧ decodeWord 0b1000000000011000 = .noop 0x8018

/-- Decoding the word of a well-formed instruction gives it back, every operand at every value (R72, R76). -/
def Obligations.DecodeOfEncode : Prop :=
  ∀ (i : Instr) (rest : List Byte), i.wellFormed = true →
    decodeWord (encode i) = i ∧ decode (bytesOfWord (encode i) ++ rest) = .ok (i, rest)

/-- Every word is one instruction or a no-op, and encoding what it decodes to gives the word back, so no bit of a word is
dropped (R78, R79, derived in the spec). -/
def Obligations.EncodeOfDecode : Prop :=
  ∀ w : Word, (decodeWord w).wellFormed = true ∧ encode (decodeWord w) = w

/-- The two-level decoder picks the row that spec/opcode_table.json picks by mask and match, and no word matches two rows of
precedence 1 (R76, R79; R79 is derived in the spec, SYS is D31). -/
def Obligations.DecodeAgreesWithTable : Prop :=
  ∀ w : Word,
    ((tableRows ++ tableLastRows).find? (fun row => row.matchesWord w)).map (fun row => row.name) =
      some (mnemonic (decodeWord w)) ∧
    ∀ row ∈ tableRows, ∀ row' ∈ tableRows, row.matchesWord w → row'.matchesWord w → row = row'

/-! ### The step cycle and the events -/

/-- A STEP that is due on a running engine with PC + 1 in memory runs exec of the instruction its two bytes decode to, on the
state with that event taken off the schedule and nothing else changed (R81; the schedule's form is the model's, log 1). -/
def Obligations.StepRunsDecodedInstruction : Prop :=
  ∀ (s : State) (i : Instr), nextEvent s = some .step → s.runState ≠ .faulted → s.pc.toNat + 1 ≤ 0xFFF →
    decode [s.mem.read s.pc.toNat, s.mem.read (s.pc.toNat + 1)] = .ok (i, []) →
    step s = exec i (dueState s) ∧ Frame [.schedule] [] s (dueState s) ∧ (dueState s).pc = s.pc ∧
      (dueState s).runState = s.runState

/-- A STEP with PC + 1 beyond 0xFFF decodes nothing and records FETCH_ADDRESS with FAULT_OP = 0x0000 (R52, R81, R184; D11). -/
def Obligations.FetchBeyondMemoryFaults : Prop :=
  ∀ s : State, nextEvent s = some .step → s.runState ≠ .faulted → s.pc.toNat + 1 > 0xFFF →
    step s = .next { dueState s with runState := .faulted, faultCode := .fetchAddress, faultPc := s.pc, faultOp := 0 }

/-- While FAULTED a STEP changes nothing (R82; D27). -/
def Obligations.FaultedStepChangesNothing : Prop :=
  ∀ s : State, nextEvent s = some .step → s.runState = .faulted → step s = .next (dueState s)

/-- A word placed where the next instruction is fetched is the instruction the very next step runs (the model's own
withFetchWord, log 10). -/
def Obligations.PlacedWordIsRun : Prop :=
  ∀ (s : State) (w : Word),
    step (s.withFetchWord 16 w.toNat) = exec (decodeWord w) (s.withFetchWord 16 w.toNat)

/-- R29, R152 and R154: Fx15 writes DT, Fx07 reads it, and a tick counts it down, saturating at 0. -/
def Obligations.DelayTimer : Prop :=
  (∀ (x : Reg) (s : State),
    decodeWord (0xF#4 ++ (BitVec.ofFin x : Nibble) ++ 0x15#8) = .ldDtVx x ∧
    ∃ t, exec (.ldDtVx x) s = .next t ∧ t.dt = s.v[x] ∧ Advanced s t ∧ Frame [.delayTimer] [] s t) ∧
  (∀ (x : Reg) (s : State),
    decodeWord (0xF#4 ++ (BitVec.ofFin x : Nibble) ++ 0x07#8) = .ldVxDt x ∧
    ∃ t, exec (.ldVxDt x) s = .next t ∧ t.v[x] = s.dt ∧ Advanced s t ∧ Frame [] [x] s t) ∧
  (∀ s : State, nextEvent s = some .tick →
    ∃ t, step s = .next t ∧ t.dt.toNat = s.dt.toNat - 1)

/-- R30 and R155: Fx18 writes ST, a tick counts it down saturating at 0, its value is the port ST_OUT, and no instruction
reads it: what any instruction does to the rest of the state does not depend on ST. -/
def Obligations.SoundTimer : Prop :=
  (∀ (x : Reg) (s : State),
    decodeWord (0xF#4 ++ (BitVec.ofFin x : Nibble) ++ 0x18#8) = .ldStVx x ∧
    ∃ t, exec (.ldStVx x) s = .next t ∧ t.st = s.v[x] ∧ Advanced s t ∧ Frame [.soundTimer] [] s t) ∧
  (∀ s : State, nextEvent s = some .tick → ∃ t, step s = .next t ∧ t.st.toNat = s.st.toNat - 1) ∧
  (∀ s : State, soundPort s = s.st) ∧
  (∀ (i : Instr) (s : State) (b : Byte), ∃ t t', exec i s = .next t ∧ exec i { s with st := b } = .next t' ∧
    { t' with st := t.st } = t)

/-- A tick counts both timers down and changes nothing else, in every RUNSTATE (R189, R191; D23, D27). -/
def Obligations.TickChangesOnlyTimers : Prop :=
  ∀ s : State, nextEvent s = some .tick →
    ∃ t, step s = .next t ∧ t.dt.toNat = s.dt.toNat - 1 ∧ t.st.toNat = s.st.toNat - 1 ∧
      t.schedule = (dueState s).schedule ∧ t.later = (dueState s).later ∧ Frame [.delayTimer, .soundTimer, .schedule] [] s t ∧
      t.pc = s.pc ∧ t.runState = s.runState

/-- A tick may fall on either side of any instruction that does not name a timer: both orders end in the same state (the
source's 'safe to interleave', quoted in R5 and R187). -/
def Obligations.TickCommutesWithInstructions : Prop :=
  ∀ (i : Instr) (s : State), (∀ x, i ≠ .ldVxDt x ∧ i ≠ .ldDtVx x ∧ i ≠ .ldStVx x) →
    ∃ t, exec i s = .next t ∧ exec i (tickEvent s) = .next (tickEvent t)

/-- R212: reset leaves memory, and with it a font a program has overwritten, and KEYS untouched. -/
def Obligations.ResetLeavesMemoryAndKeys : Prop :=
  ∀ s : State, nextEvent s = some .reset →
    ∃ t, step s = .next t ∧ (∀ a : Nat, t.mem.read a = s.mem.read a) ∧ t.keys = s.keys

/-- Reset's writes, in every RUNSTATE (R211; D6 for I, DIRTY and the status block); the random source goes on where it was
(log 2). -/
def Obligations.ResetWrites : Prop :=
  ∀ s : State, nextEvent s = some .reset →
    ∃ t, step s = .next t ∧ (∀ r : Reg, t.v[r] = 0) ∧ t.i = 0 ∧ t.pc = 0x200 ∧ t.sp = 0 ∧
      (∀ j : Fin 16, t.stack[j] = 0) ∧ t.dt = 0 ∧ t.st = 0 ∧
      (∀ (py : Fin 32) (px : Fin 64), t.fb[py][px] = false) ∧ t.dirty = true ∧ t.runState = .running ∧
      t.faultCode = .none ∧ t.faultPc = 0 ∧ t.faultOp = 0 ∧ t.schedule = (dueState s).schedule ∧ t.later = (dueState s).later ∧
      t.draws = s.draws ∧ t.loadResult = s.loadResult

/-- LOAD: rejected iff address + L > 4096, and then nothing is written; else exactly the L bytes are, in any RUNSTATE, and no
register, PC, pixel or status field is (R57, R58; D26; the result latch is the model's, log 6). -/
def Obligations.LoadWritesAllOrNothing : Prop :=
  ∀ (s : State) (address : Word) (bytes : List Byte), nextEvent s = some (.load address bytes) →
    ∃ t, step s = .next t ∧ t.schedule = (dueState s).schedule ∧ t.later = (dueState s).later ∧ t.pc = s.pc ∧
      t.runState = s.runState ∧
      Frame [.memory, .schedule, .loadResult] [] s t ∧
      (address.toNat + bytes.length > 4096 →
        t.loadResult = some .addressError ∧ ∀ a : Nat, t.mem.read a = s.mem.read a) ∧
      (address.toNat + bytes.length ≤ 4096 →
        t.loadResult = some .ok ∧ (∀ j : Fin bytes.length, t.mem.read (address.toNat + j.val) = bytes[j]) ∧
        ∀ a : Nat, a < address.toNat ∨ address.toNat + bytes.length ≤ a → t.mem.read a = s.mem.read a)

/-- A word loaded over the next instruction is the one the next STEP executes (R61, R217; D29): the way a program comes to run
(log 10). -/
def Obligations.LoadedWordIsFetched : Prop :=
  ∀ (s : State) (w : Word), nextEvent s = some (.load s.pc (bytesOfWord w)) → scheduledAt 1 s = some .step →
    s.runState ≠ .faulted → s.pc.toNat + 1 ≤ 0xFFF →
    ∃ t, step s = .next t ∧ t.pc = s.pc ∧ step t = exec (decodeWord w) (dueState t)

/-- The host's other events: KEYS takes the given value, reading the frame changes nothing, DIRTY_ACK clears DIRTY, and
nothing else moves (R33, R193, R194; D25, D28). -/
def Obligations.KeysFrameAndDirtyEvents : Prop :=
  ∀ (s : State) (k : Word),
    (nextEvent s = some (.setKeys k) → step s = .next { dueState s with keys := k }) ∧
    (nextEvent s = some .readFrame → step s = .next (dueState s)) ∧
    (nextEvent s = some .dirtyAck → step s = .next { dueState s with dirty := false })

/-- The status block's codes on the port STATUS (R32, R180; D7, D20). -/
def Obligations.StatusPortCodes : Prop :=
  ∀ s : State, (statusPort s).faultPc = s.faultPc ∧ (statusPort s).faultOp = s.faultOp ∧
    (s.runState = .running → (statusPort s).runState = 0) ∧ (s.runState = .waiting → (statusPort s).runState = 1) ∧
    (s.runState = .faulted → (statusPort s).runState = 2) ∧
    (s.faultCode = .none → (statusPort s).faultCode = 0) ∧
    (s.faultCode = .stackOverflow → (statusPort s).faultCode = 1) ∧
    (s.faultCode = .stackUnderflow → (statusPort s).faultCode = 2) ∧
    (s.faultCode = .fetchAddress → (statusPort s).faultCode = 3) ∧
    (s.faultCode = .dataAddress → (statusPort s).faultCode = 4) ∧
    (s.faultCode = .keyIndex → (statusPort s).faultCode = 5)

/-! ### Faults -/

/-- Fault entry is precise: an instruction whose condition holds records its code, a and its word, and every register, stack
entry, timer, byte, pixel and DIRTY, and PC, stay (R180, R181, R53; D7 to D10, D19; FAULT_OP is the encoded instruction, log 7). -/
def Obligations.FaultEntryIsPrecise : Prop :=
  ∀ (i : Instr) (s : State) (c : FaultCode), FaultsWith i s c →
    exec i s = .next { s with runState := .faulted, faultCode := c, faultPc := s.pc, faultOp := encode i }

/-- Nothing but the listed conditions faults: an instruction for which none holds goes on, and leaves the status block's fault
fields alone (R184, R185, derived in the spec; D7). -/
def Obligations.NothingElseFaults : Prop :=
  ∀ (i : Instr) (s : State), (∀ c, ¬FaultsWith i s c) →
    ∃ t, exec i s = .next t ∧ t.runState ≠ .faulted ∧
      t.faultCode = s.faultCode ∧ t.faultPc = s.faultPc ∧ t.faultOp = s.faultOp

/-- A fault stays until reset: through any number of events of which none is a RESET, the engine stays FAULTED with the
same record, PC, registers, I, stack, pixels, and KEYS changes only by the host (R182, R183; D7, D27). -/
def Obligations.FaultStaysUntilReset : Prop :=
  ∀ (n : Nat) (s : State), s.runState = .faulted → (∀ k : Nat, k < n → scheduledAt k s ≠ some .reset) →
    ∃ t, Host.Core.run core n s = .next t ∧ t.runState = .faulted ∧ t.pc = s.pc ∧
      t.faultCode = s.faultCode ∧ t.faultPc = s.faultPc ∧ t.faultOp = s.faultOp ∧
      t.v = s.v ∧ t.i = s.i ∧ t.sp = s.sp ∧ t.stack = s.stack ∧ t.fb = s.fb ∧ t.draws = s.draws

/-! ### System and control flow -/

/-- R77: a word of any of the five forms decodes to the no-op, whose step is only the fetch and PC <- a + 2. -/
def Obligations.NoopSpace : Prop :=
  ∀ (w : Word) (s : State),
    ((opOf w = 5 ∧ nOf w ≠ 0) ∨ (opOf w = 8 ∧ nOf w ∈ [8, 9, 0xA, 0xB, 0xC, 0xD, 0xF]) ∨ (opOf w = 9 ∧ nOf w ≠ 0) ∨
      (opOf w = 0xE ∧ kkOf w ∉ [0x9E, 0xA1]) ∨
      (opOf w = 0xF ∧ kkOf w ∉ [0x07, 0x0A, 0x15, 0x18, 0x1E, 0x29, 0x33, 0x55, 0x65])) →
    decodeWord w = .noop w ∧ ∃ t, exec (.noop w) s = .next t ∧ Advanced s t ∧ Frame [] [] s t

/-- SYS nnn is a no-op (R90; D31). -/
def Obligations.SysIsNoop : Prop :=
  ∀ (nnn : Addr) (s : State),
    (nnn ≠ 0x0E0 → nnn ≠ 0x0EE → decodeWord (0x0#4 ++ nnn) = .sysNnn nnn) ∧
    ∃ t, exec (.sysNnn nnn) s = .next t ∧ Advanced s t ∧ Frame [] [] s t

/-- R91: CLS clears every pixel and sets DIRTY, whatever the frame buffer held. -/
def Obligations.ClsClearsScreen : Prop :=
  decodeWord 0x00E0 = .cls ∧
  ∀ s : State, ∃ t, exec .cls s = .next t ∧ (∀ (py : Fin 32) (px : Fin 64), t.fb[py][px] = false) ∧ t.dirty = true ∧
    Advanced s t ∧ Frame [.screen, .dirty] [] s t

/-- RET at SP ≠ 0 pops: PC is the entry SP indexed, which keeps its value (R92; at SP = 0 it faults by D9, which
FaultEntryIsPrecise states). -/
def Obligations.RetPops : Prop :=
  decodeWord 0x00EE = .ret ∧
  ∀ (s : State) (j : Fin 16), j.val = s.sp.toNat → s.sp ≠ 0 →
    ∃ t, exec .ret s = .next t ∧ t.pc = s.stack[j] ∧ t.sp.toNat = s.sp.toNat - 1 ∧ t.stack = s.stack ∧
      t.runState = .running ∧ Frame [.stack] [] s t

/-- R93: JP nnn. -/
def Obligations.JpJumps : Prop :=
  ∀ (nnn : Addr) (s : State),
    decodeWord (0x1#4 ++ nnn) = .jpNnn nnn ∧
    ∃ t, exec (.jpNnn nnn) s = .next t ∧ t.pc.toNat = nnn.toNat ∧ t.runState = .running ∧ Frame [] [] s t

/-- CALL at SP ≠ 15 pushes a + 2 on the next entry and jumps; the other entries stay (R94, R28; at SP = 15 it faults by D8, which
FaultEntryIsPrecise states). -/
def Obligations.CallPushes : Prop :=
  ∀ (nnn : Addr) (s : State),
    decodeWord (0x2#4 ++ nnn) = .callNnn nnn ∧
    (s.sp ≠ 15 → ∃ t, exec (.callNnn nnn) s = .next t ∧ t.pc.toNat = nnn.toNat ∧ t.runState = .running ∧
      t.sp.toNat = s.sp.toNat + 1 ∧ (∀ j : Fin 16, j.val = s.sp.toNat + 1 → t.stack[j] = s.pc + 2) ∧
      (∀ j : Fin 16, j.val ≠ s.sp.toNat + 1 → t.stack[j] = s.stack[j]) ∧ Frame [.stack] [] s t)

/-- R95 and R96: SE and SNE on an immediate byte. -/
def Obligations.SkipsOnByte : Prop :=
  ∀ (x : Reg) (kk : Byte) (s : State),
    decodeWord (0x3#4 ++ (BitVec.ofFin x : Nibble) ++ kk) = .seVxKk x kk ∧
    decodeWord (0x4#4 ++ (BitVec.ofFin x : Nibble) ++ kk) = .sneVxKk x kk ∧
    (∃ t, exec (.seVxKk x kk) s = .next t ∧ Skipped (s.v[x] = kk) s t ∧ Frame [] [] s t) ∧
    (∃ t, exec (.sneVxKk x kk) s = .next t ∧ Skipped (s.v[x] ≠ kk) s t ∧ Frame [] [] s t)

/-- R97 and R98: SE and SNE on two registers, each with low nibble 0; any other low nibble is a no-op. -/
def Obligations.SkipsOnRegisters : Prop :=
  ∀ (x y : Reg) (s : State),
    decodeWord (0x5#4 ++ (BitVec.ofFin x : Nibble) ++ (BitVec.ofFin y : Nibble) ++ 0x0#4) = .seVxVy x y ∧
    decodeWord (0x9#4 ++ (BitVec.ofFin x : Nibble) ++ (BitVec.ofFin y : Nibble) ++ 0x0#4) = .sneVxVy x y ∧
    (∀ n : Nibble, n ≠ 0 → ∀ w : Word,
      w = 0x5#4 ++ (BitVec.ofFin x : Nibble) ++ (BitVec.ofFin y : Nibble) ++ n ∨ w = 0x9#4 ++ (BitVec.ofFin x : Nibble) ++ (BitVec.ofFin y : Nibble) ++ n →
      decodeWord w = .noop w) ∧
    (∃ t, exec (.seVxVy x y) s = .next t ∧ Skipped (s.v[x] = s.v[y]) s t ∧ Frame [] [] s t) ∧
    (∃ t, exec (.sneVxVy x y) s = .next t ∧ Skipped (s.v[x] ≠ s.v[y]) s t ∧ Frame [] [] s t)

/-- JP V0, nnn: the exact sum, with no 12-bit mask (R99; D13). -/
def Obligations.JpV0Jumps : Prop :=
  ∀ (nnn : Addr) (s : State),
    decodeWord (0xB#4 ++ nnn) = .jpV0Nnn nnn ∧
    ∃ t, exec (.jpV0Nnn nnn) s = .next t ∧ t.pc.toNat = nnn.toNat + s.v[0].toNat ∧ t.runState = .running ∧
      Frame [] [] s t

/-! ### Loads and the ALU family -/

/-- R110 and R111: load and add an immediate byte; the sum wraps and VF is not written as a flag. -/
def Obligations.ImmediateLoadAndAdd : Prop :=
  ∀ (x : Reg) (kk : Byte) (s : State),
    decodeWord (0x6#4 ++ (BitVec.ofFin x : Nibble) ++ kk) = .ldVxKk x kk ∧
    decodeWord (0x7#4 ++ (BitVec.ofFin x : Nibble) ++ kk) = .addVxKk x kk ∧
    (∃ t, exec (.ldVxKk x kk) s = .next t ∧ t.v[x] = kk ∧ Advanced s t ∧ Frame [] [x] s t) ∧
    (∃ t, exec (.addVxKk x kk) s = .next t ∧ t.v[x].toNat = (s.v[x].toNat + kk.toNat) % 256 ∧
      Advanced s t ∧ Frame [] [x] s t)

/-- Copy, OR, AND, XOR, with no flag (R112 to R115; D17). -/
def Obligations.CopyAndLogic : Prop :=
  ∀ (x y : Reg) (s : State),
    (∃ t, exec (.ldVxVy x y) s = .next t ∧ t.v[x] = s.v[y] ∧ Advanced s t ∧ Frame [] [x] s t) ∧
    (∃ t, exec (.orVxVy x y) s = .next t ∧ (∀ k, t.v[x].getLsbD k = (s.v[x].getLsbD k || s.v[y].getLsbD k)) ∧
      Advanced s t ∧ Frame [] [x] s t) ∧
    (∃ t, exec (.andVxVy x y) s = .next t ∧ (∀ k, t.v[x].getLsbD k = (s.v[x].getLsbD k && s.v[y].getLsbD k)) ∧
      Advanced s t ∧ Frame [] [x] s t) ∧
    (∃ t, exec (.xorVxVy x y) s = .next t ∧ (∀ k, t.v[x].getLsbD k = (s.v[x].getLsbD k ^^ s.v[y].getLsbD k)) ∧
      Advanced s t ∧ Frame [] [x] s t)

/-- R116: ADD Vx, Vy. The carry is in VF, for x = 0xF too. -/
def Obligations.AddSetsCarry : Prop :=
  ∀ (x y : Reg) (s : State),
    decodeWord (0x8#4 ++ (BitVec.ofFin x : Nibble) ++ (BitVec.ofFin y : Nibble) ++ 0x4#4) = .addVxVy x y ∧
    ∃ t, exec (.addVxVy x y) s = .next t ∧
      (x ≠ 15 → t.v[x].toNat = (s.v[x].toNat + s.v[y].toNat) % 256) ∧
      (s.v[x].toNat + s.v[y].toNat ≥ 256 → t.v[(15 : Reg)] = 1) ∧
      (s.v[x].toNat + s.v[y].toNat < 256 → t.v[(15 : Reg)] = 0) ∧
      Advanced s t ∧ Frame [] [x, 15] s t

/-- R117: SUB Vx, Vy. VF is 1 iff V[x] > V[y] strictly, for x = 0xF too. -/
def Obligations.SubSetsGreater : Prop :=
  ∀ (x y : Reg) (s : State),
    decodeWord (0x8#4 ++ (BitVec.ofFin x : Nibble) ++ (BitVec.ofFin y : Nibble) ++ 0x5#4) = .subVxVy x y ∧
    ∃ t, exec (.subVxVy x y) s = .next t ∧
      (x ≠ 15 → (t.v[x].toNat : Int) = ((s.v[x].toNat : Int) - s.v[y].toNat) % 256) ∧
      (s.v[x].toNat > s.v[y].toNat → t.v[(15 : Reg)] = 1) ∧
      (s.v[x].toNat ≤ s.v[y].toNat → t.v[(15 : Reg)] = 0) ∧
      Advanced s t ∧ Frame [] [x, 15] s t

/-- SUBN Vx, Vy. VF is 1 iff V[y] > V[x] strictly (R119; D18). -/
def Obligations.SubnSetsGreater : Prop :=
  ∀ (x y : Reg) (s : State),
    ∃ t, exec (.subnVxVy x y) s = .next t ∧
      (x ≠ 15 → (t.v[x].toNat : Int) = ((s.v[y].toNat : Int) - s.v[x].toNat) % 256) ∧
      (s.v[y].toNat > s.v[x].toNat → t.v[(15 : Reg)] = 1) ∧
      (s.v[y].toNat ≤ s.v[x].toNat → t.v[(15 : Reg)] = 0) ∧
      Advanced s t ∧ Frame [] [x, 15] s t

/-- SHR and SHL shift V[x] by one, the bit shifted out in VF, whatever y is (R118, R120; D16). -/
def Obligations.ShiftsMoveBitToVf : Prop :=
  ∀ (x y : Reg) (s : State),
    (∃ t, exec (.shrVx x y) s = .next t ∧ (x ≠ 15 → t.v[x].toNat = s.v[x].toNat / 2) ∧
      t.v[(15 : Reg)].toNat = s.v[x].toNat % 2 ∧ Advanced s t ∧ Frame [] [x, 15] s t) ∧
    (∃ t, exec (.shlVx x y) s = .next t ∧ (x ≠ 15 → t.v[x].toNat = s.v[x].toNat * 2 % 256) ∧
      t.v[(15 : Reg)].toNat = s.v[x].toNat / 128 ∧ Advanced s t ∧ Frame [] [x, 15] s t)

/-- 6xkk then 7xkk' leaves V[x] = (k + k') mod 256 and every other register alone, through two steps of the machine (the
source's property, quoted in R111). -/
def Obligations.LoadThenAddImmediate : Prop :=
  ∀ (s : State) (x : Reg) (k k' : Byte), scheduledAt 0 s = some .step → scheduledAt 1 s = some .step →
    s.runState ≠ .faulted → s.pc.toNat + 3 ≤ 0xFFF →
    fetchWord s = 0x6#4 ++ (BitVec.ofFin x : Nibble) ++ k →
    fetchWord { s with pc := s.pc + 2 } = 0x7#4 ++ (BitVec.ofFin x : Nibble) ++ k' →
    ∃ t, Host.Core.run core 2 s = .next t ∧ t.v[x].toNat = (k.toNat + k'.toNat) % 256 ∧
      t.pc = s.pc + 4 ∧ t.runState = .running ∧ Frame [.schedule] [x] s t

/-! ### Index, random and draw -/

/-- R130: LD I, nnn. -/
def Obligations.LdISetsIndex : Prop :=
  ∀ (nnn : Addr) (s : State),
    decodeWord (0xA#4 ++ nnn) = .ldINnn nnn ∧
    ∃ t, exec (.ldINnn nnn) s = .next t ∧ t.i.toNat = nnn.toNat ∧ Advanced s t ∧ Frame [.index] [] s t

/-- RND Vx, kk: the draw AND the mask, and the next draw is another one. The draw is the free value Config.rand, of which
nothing is known (R131, R13; D24; log 2). -/
def Obligations.RndMasksDraw : Prop :=
  ∀ (x : Reg) (kk : Byte) (s : State),
    ∃ t, exec (.rndVxKk x kk) s = .next t ∧
      (∀ k, t.v[x].getLsbD k = ((Config.rand s.draws).getLsbD k && kk.getLsbD k)) ∧
      t.draws = s.draws + 1 ∧ Advanced s t ∧ Frame [.draws] [x] s t

/-- DRW in range: every pixel the sprite covers flips, every other stays, VF is 1 iff some pixel was 1 and is 0, DIRTY is set
(R132, R133; D21 for n = 0, D22 for the bit order). -/
def Obligations.DrwXorsSprite : Prop :=
  ∀ (x y : Reg) (n : Nibble) (s : State), n = 0 ∨ s.i.toNat + n.toNat - 1 ≤ 0xFFF →
    ∃ t, exec (.drwVxVyN x y n) s = .next t ∧
      (∀ (py : Fin 32) (px : Fin 64), SpriteCovers s x y n py px → t.fb[py][px] = !s.fb[py][px]) ∧
      (∀ (py : Fin 32) (px : Fin 64), ¬SpriteCovers s x y n py px → t.fb[py][px] = s.fb[py][px]) ∧
      ((∃ (py : Fin 32) (px : Fin 64), s.fb[py][px] = true ∧ t.fb[py][px] = false) → t.v[(15 : Reg)] = 1) ∧
      ((¬∃ (py : Fin 32) (px : Fin 64), s.fb[py][px] = true ∧ t.fb[py][px] = false) → t.v[(15 : Reg)] = 0) ∧
      t.dirty = true ∧ Advanced s t ∧ Frame [.screen, .dirty] [15] s t

/-- Draw idempotence: the same sprite drawn twice at the same place, with x and y not VF, gives the frame buffer back (R134,
derived in the spec from R132; D22). THE CLAUSES ON VF ARE THE MODEL'S OWN DEDUCTION FROM R132, against R134's sentence on VF
(log 11): it is 1 iff some covered pixel was 0 before the first draw, since those are the pixels that the first draw sets and
the second turns off. The last clause is R134's sentence wherever R132 gives it: it holds in every case but the one where the
sprite has a set bit and every covered pixel was 1. -/
def Obligations.DrawTwiceRestores : Prop :=
  ∀ (x y : Reg) (n : Nibble) (s : State), n = 0 ∨ s.i.toNat + n.toNat - 1 ≤ 0xFFF → x ≠ 15 → y ≠ 15 →
    ∃ t u, exec (.drwVxVyN x y n) s = .next t ∧ exec (.drwVxVyN x y n) t = .next u ∧ u.fb = s.fb ∧
      ((∃ py px, SpriteCovers s x y n py px ∧ s.fb[py][px] = false) → u.v[(15 : Reg)] = 1) ∧
      ((∀ py px, SpriteCovers s x y n py px → s.fb[py][px] = true) → u.v[(15 : Reg)] = 0) ∧
      ((∃ py px, SpriteCovers s x y n py px ∧ s.fb[py][px] = false) ∨
          (∀ r : Nat, r < n.toNat → s.mem.read (s.i.toNat + r) = 0) →
        (u.v[(15 : Reg)] = 1 ↔ ∃ r : Nat, r < n.toNat ∧ s.mem.read (s.i.toNat + r) ≠ 0))

/-- EXPECTED TO FAIL. R134 says that VF after the second of two equal draws 'is 1 iff the sprite has at least one set bit'. By R132
that is not so when every covered pixel was set before the first draw: the first turns them off and the second turns them on
again, so nothing collides (log 11). -/
def Obligations.SecondDrawCollidesIffSpriteHasSetBit : Prop :=
  ∀ (x y : Reg) (n : Nibble) (s t u : State), n = 0 ∨ s.i.toNat + n.toNat - 1 ≤ 0xFFF → x ≠ 15 → y ≠ 15 →
    exec (.drwVxVyN x y n) s = .next t → exec (.drwVxVyN x y n) t = .next u →
    (u.v[(15 : Reg)] = 1 ↔ ∃ r : Nat, r < n.toNat ∧ s.mem.read (s.i.toNat + r) ≠ 0)

/-! ### Keys, timers, index arithmetic, block transfers -/

/-- SKP and SKNP with V[x] ≤ 15 test that key's bit of the snapshot (R150, R151; a larger V[x] faults by D19, which
FaultEntryIsPrecise states). -/
def Obligations.KeySkips : Prop :=
  ∀ (x : Reg) (s : State), s.v[x].toNat ≤ 15 →
    (∃ t, exec (.skpVx x) s = .next t ∧ Skipped (s.keys.getLsbD s.v[x].toNat = true) s t ∧ Frame [] [] s t) ∧
    (∃ t, exec (.sknpVx x) s = .next t ∧ Skipped (s.keys.getLsbD s.v[x].toNat = false) s t ∧ Frame [] [] s t)

/-- LD Vx, K. With a key pressed V[x] is the highest pressed key and the step moves on; with none pressed PC stays on the
instruction and RUNSTATE is WAITING (R153, R200, 90_conflicts.md C3; D20). -/
def Obligations.KeyWaitTakesHighestOrStays : Prop :=
  ∀ (x : Reg) (s : State),
    (s.keys ≠ 0 → ∃ t, exec (.ldVxK x) s = .next t ∧ t.v[x].toNat ≤ 15 ∧ s.keys.getLsbD t.v[x].toNat = true ∧
      (∀ k : Nat, s.keys.getLsbD k = true → k ≤ t.v[x].toNat) ∧ Advanced s t ∧ Frame [] [x] s t) ∧
    (s.keys = 0 → ∃ t, exec (.ldVxK x) s = .next t ∧ t.pc = s.pc ∧ t.runState = .waiting ∧ Frame [] [] s t)

/-- R219: whatever number of steps and ticks come, an engine at Fx0A makes no progress past it while KEYS is zero; and at a step
that finds KEYS non-zero it moves past. -/
def Obligations.KeyWaitMakesNoProgress : Prop :=
  ∀ (n : Nat) (s : State) (x : Reg), s.runState ≠ .faulted → s.pc.toNat + 1 ≤ 0xFFF →
    decodeWord (fetchWord s) = .ldVxK x → s.keys = 0 →
    (∀ (k : Nat) (e : Event), k < n → scheduledAt k s = some e → e = .step ∨ e = .tick) →
    ∃ t, Host.Core.run core n s = .next t ∧ t.pc = s.pc ∧ t.runState ≠ .faulted ∧
      Frame [.delayTimer, .soundTimer, .schedule] [] s t ∧
      ∀ k : Word, k ≠ 0 → ∃ u, step { t with keys := k, schedule := [.step] } = .next u ∧ Advanced s u

/-- ADD I, Vx modulo 2^16, with no mask and no flag (R156; D14). -/
def Obligations.AddIWraps : Prop :=
  ∀ (x : Reg) (s : State),
    ∃ t, exec (.addIVx x) s = .next t ∧ t.i.toNat = (s.i.toNat + s.v[x].toNat) % 65536 ∧ Advanced s t ∧
      Frame [.index] [] s t

/-- R157: LD F, Vx, with no mask. -/
def Obligations.LdFPointsAtGlyph : Prop :=
  ∀ (x : Reg) (s : State),
    decodeWord (0xF#4 ++ (BitVec.ofFin x : Nibble) ++ 0x29#8) = .ldFVx x ∧
    ∃ t, exec (.ldFVx x) s = .next t ∧ t.i.toNat = s.v[x].toNat * 5 ∧ Advanced s t ∧ Frame [.index] [] s t

/-- LD B, Vx in range: the digits of V[x] at I, I + 1, I + 2, every other byte kept (R158; beyond 0xFFF it faults by D10, which
FaultEntryIsPrecise states). -/
def Obligations.LdBStoresDigits : Prop :=
  ∀ (x : Reg) (s : State), s.i.toNat + 2 ≤ 0xFFF →
    ∃ t, exec (.ldBVx x) s = .next t ∧
      (t.mem.read s.i.toNat).toNat = s.v[x].toNat / 100 ∧
      (t.mem.read (s.i.toNat + 1)).toNat = s.v[x].toNat / 10 % 10 ∧
      (t.mem.read (s.i.toNat + 2)).toNat = s.v[x].toNat % 10 ∧
      (∀ a : Nat, a < s.i.toNat ∨ s.i.toNat + 2 < a → t.mem.read a = s.mem.read a) ∧
      Advanced s t ∧ Frame [.memory] [] s t

/-- LD [I], Vx in range: V[0..x] at I, ..., I + x, every other byte kept, I kept (R159; D15; beyond 0xFFF it faults by D10). -/
def Obligations.BlockStore : Prop :=
  ∀ (x : Reg) (s : State), s.i.toNat + x.val ≤ 0xFFF →
    ∃ t, exec (.ldMemVx x) s = .next t ∧ (∀ r : Reg, r ≤ x → t.mem.read (s.i.toNat + r.val) = s.v[r]) ∧
      (∀ a : Nat, a < s.i.toNat ∨ s.i.toNat + x.val < a → t.mem.read a = s.mem.read a) ∧
      Advanced s t ∧ Frame [.memory] [] s t

/-- LD Vx, [I] in range: V[0..x] from I, ..., I + x, the registers above x kept, I kept (R160; D15; beyond 0xFFF it faults by
D10). -/
def Obligations.BlockLoad : Prop :=
  ∀ (x : Reg) (s : State), s.i.toNat + x.val ≤ 0xFFF →
    ∃ t, exec (.ldVxMem x) s = .next t ∧ (∀ r : Reg, r ≤ x → t.v[r] = s.mem.read (s.i.toNat + r.val)) ∧
      (∀ r : Reg, x < r → t.v[r] = s.v[r]) ∧ Advanced s t ∧ Frame [] (List.finRange 16) s t

/-! ### Rules over all instructions -/

/-- Which instruction writes what: the frame buffer only CLS and DRW, STACK only CALL, SP only CALL and RET, DT only Fx15, ST only
Fx18, memory only Fx33 and Fx55, I only Annn, Fx1E and Fx29; no instruction clears DIRTY or changes KEYS (R23, R27, R29, R30, R31,
R33, R54; R54 is derived in the spec, the rest rests on D14, D15, D25 and D34 too). -/
def Obligations.OnlyNamedInstructionsWrite : Prop :=
  ∀ (i : Instr) (s t : State), exec i s = .next t →
    (t.fb ≠ s.fb → i = .cls ∨ ∃ x y n, i = .drwVxVyN x y n) ∧
    (t.stack ≠ s.stack → ∃ nnn, i = .callNnn nnn) ∧
    (t.sp ≠ s.sp → i = .ret ∨ ∃ nnn, i = .callNnn nnn) ∧
    (t.dt ≠ s.dt → ∃ x, i = .ldDtVx x) ∧
    (t.st ≠ s.st → ∃ x, i = .ldStVx x) ∧
    ((∃ a, t.mem.read a ≠ s.mem.read a) → ∃ x, i = .ldBVx x ∨ i = .ldMemVx x) ∧
    (t.i ≠ s.i → (∃ nnn, i = .ldINnn nnn) ∨ ∃ x, i = .addIVx x ∨ i = .ldFVx x) ∧
    (s.dirty = true → t.dirty = true) ∧ t.keys = s.keys

/-- The six flag writers leave VF holding the flag whatever x is, each computed from pre-state operands, and every other
instruction changes VF only as a register it names: the destination x, or the block V[0..x] of Fx65 (R21, C8). The conditions
are those of R116 to R120 and R132: 8xy7's rests on D18, 8xy6's and 8xyE's on D16, the bit order and n = 0 of Dxyn on D22 and
D21, and that 8xy0 to 8xy3 write no flag on D17. -/
def Obligations.VfIsFlagOfSix : Prop :=
  (∀ (x y : Reg) (s : State),
    (∃ t, exec (.addVxVy x y) s = .next t ∧ FlagIs (s.v[x].toNat + s.v[y].toNat ≥ 256) t) ∧
    (∃ t, exec (.subVxVy x y) s = .next t ∧ FlagIs (s.v[x].toNat > s.v[y].toNat) t) ∧
    (∃ t, exec (.shrVx x y) s = .next t ∧ FlagIs (s.v[x].getLsbD 0 = true) t) ∧
    (∃ t, exec (.subnVxVy x y) s = .next t ∧ FlagIs (s.v[y].toNat > s.v[x].toNat) t) ∧
    (∃ t, exec (.shlVx x y) s = .next t ∧ FlagIs (s.v[x].getLsbD 7 = true) t) ∧
    (∀ n : Nibble, n = 0 ∨ s.i.toNat + n.toNat - 1 ≤ 0xFFF → ∃ t, exec (.drwVxVyN x y n) s = .next t ∧
      FlagIs (∃ (py : Fin 32) (px : Fin 64), s.fb[py][px] = true ∧ t.fb[py][px] = false) t)) ∧
  (∀ (i : Instr) (s t : State), exec i s = .next t → t.v[(15 : Reg)] ≠ s.v[(15 : Reg)] →
    (∃ x y, i = .addVxVy x y ∨ i = .subVxVy x y ∨ i = .shrVx x y ∨ i = .subnVxVy x y ∨ i = .shlVx x y) ∨
    (∃ x y n, i = .drwVxVyN x y n) ∨
    (∃ kk, i = .ldVxKk 15 kk ∨ i = .addVxKk 15 kk ∨ i = .rndVxKk 15 kk) ∨
    (∃ y, i = .ldVxVy 15 y ∨ i = .orVxVy 15 y ∨ i = .andVxVy 15 y ∨ i = .xorVxVy 15 y) ∨
    i = .ldVxDt 15 ∨ i = .ldVxK 15 ∨ i = .ldVxMem 15)

/-- Where PC goes: a + 2, a + 4 by the six skips, nnn, nnn + V[0], STACK[SP], or a itself by a key wait or a fault (R24; the
fault and the wait are D7 and D20). -/
def Obligations.PcGoesWhereListed : Prop :=
  ∀ (i : Instr) (s t : State), exec i s = .next t →
    t.pc = s.pc + 2 ∨
    (t.pc = s.pc + 4 ∧ ((∃ x kk, i = .seVxKk x kk ∨ i = .sneVxKk x kk) ∨ (∃ x y, i = .seVxVy x y ∨ i = .sneVxVy x y) ∨
      ∃ x, i = .skpVx x ∨ i = .sknpVx x)) ∨
    (∃ nnn, (i = .jpNnn nnn ∨ i = .callNnn nnn) ∧ t.pc.toNat = nnn.toNat) ∨
    (∃ nnn, i = .jpV0Nnn nnn ∧ t.pc.toNat = nnn.toNat + s.v[0].toNat) ∨
    (i = .ret ∧ ∃ j : Fin 16, j.val = s.sp.toNat ∧ t.pc = s.stack[j]) ∨
    (t.pc = s.pc ∧ (t.runState = .faulted ∨ (t.runState = .waiting ∧ ∃ x, i = .ldVxK x)))

/-- The call and return round trip: CALL t at a, then RET at t, ends at a + 2 with SP and every register back, and only
STACK[old SP + 1] written (R100, derived in the spec from R92 and R94). -/
def Obligations.CallReturnRoundTrip : Prop :=
  ∀ (s : State) (nnn : Addr), scheduledAt 0 s = some .step → scheduledAt 1 s = some .step → s.runState ≠ .faulted →
    s.pc.toNat + 1 ≤ 0xFFF → s.sp ≠ 15 →
    decodeWord (fetchWord s) = .callNnn nnn → nnn.toNat + 1 ≤ 0xFFF →
    decodeWord (wordOfBytes (s.mem.read nnn.toNat) (s.mem.read (nnn.toNat + 1))) = .ret →
    ∃ t, Host.Core.run core 2 s = .next t ∧ t.pc = s.pc + 2 ∧ t.runState = .running ∧ t.sp = s.sp ∧
      (∀ j : Fin 16, j.val = s.sp.toNat + 1 → t.stack[j] = s.pc + 2) ∧
      (∀ j : Fin 16, j.val ≠ s.sp.toNat + 1 → t.stack[j] = s.stack[j]) ∧ Frame [.stack, .schedule] [] s t
end

