-- ==== Sys2Proof/Laws/Decode.lean ====
section
/-! SUPPORT. What each field of an encoded word reads as, in each format (spec/30_encoding.md R71, R72), and that a word is
made of its fields. -/

namespace Sys2Proof

theorem fin_ofFin (r : Reg) : (regBits r).toFin = r := rfl

@[simp] theorem toNat_regBits (r : Reg) : (regBits r).toNat = r.val := rfl

theorem val_xOf (w : Word) : (xOf w).val = w.toNat / 256 % 16 := by
  show (w.extractLsb' 8 4).toNat = _
  rw [BitVec.extractLsb'_toNat, Nat.shiftRight_eq_div_pow]

theorem val_yOf (w : Word) : (yOf w).val = w.toNat / 16 % 16 := by
  show (w.extractLsb' 4 4).toNat = _
  rw [BitVec.extractLsb'_toNat, Nat.shiftRight_eq_div_pow]

theorem toNat_opOf (w : Word) : (opOf w).toNat = w.toNat / 4096 := by
  have := w.isLt
  rw [opOf, BitVec.extractLsb'_toNat, Nat.shiftRight_eq_div_pow]
  omega

theorem toNat_nOf (w : Word) : (nOf w).toNat = w.toNat % 16 := by
  rw [nOf, BitVec.extractLsb'_toNat, Nat.shiftRight_zero]

theorem toNat_kkOf (w : Word) : (kkOf w).toNat = w.toNat % 256 := by
  rw [kkOf, BitVec.extractLsb'_toNat, Nat.shiftRight_zero]

theorem toNat_nnnOf (w : Word) : (nnnOf w).toNat = w.toNat % 4096 := by
  rw [nnnOf, BitVec.extractLsb'_toNat, Nat.shiftRight_zero]

/-- An appended pair of fields as a number: the high one is shifted past the low one. -/
theorem toNat_append_eq {m n : Nat} (a : BitVec m) (b : BitVec n) : (a ++ b).toNat = a.toNat * 2 ^ n + b.toNat := by
  rw [BitVec.toNat_append, ← Nat.shiftLeft_add_eq_or_of_lt b.isLt, Nat.shiftLeft_eq]

theorem toNat_encodeFA (op : Nibble) (nnn : Addr) : (encodeFA op nnn).toNat = op.toNat * 4096 + nnn.toNat :=
  toNat_append_eq op nnn

theorem toNat_encodeFXK (op : Nibble) (x : Reg) (kk : Byte) :
    (encodeFXK op x kk).toNat = op.toNat * 4096 + x.val * 256 + kk.toNat := by
  have h := toNat_append_eq (op ++ regBits x) kk
  rw [toNat_append_eq op (regBits x), toNat_regBits] at h
  rw [encodeFXK, h]
  omega

theorem toNat_encodeFXYN (op : Nibble) (x y : Reg) (n : Nibble) :
    (encodeFXYN op x y n).toNat = op.toNat * 4096 + x.val * 256 + y.val * 16 + n.toNat := by
  have h := toNat_append_eq (op ++ regBits x ++ regBits y) n
  rw [toNat_append_eq (op ++ regBits x) (regBits y), toNat_append_eq op (regBits x), toNat_regBits, toNat_regBits] at h
  rw [encodeFXYN, h]
  omega

/-! ### The fields of each format -/

@[simp] theorem opOf_encodeFA (op : Nibble) (nnn : Addr) : opOf (encodeFA op nnn) = op := by
  apply BitVec.eq_of_toNat_eq
  have := nnn.isLt
  rw [toNat_opOf, toNat_encodeFA]
  omega

@[simp] theorem nnnOf_encodeFA (op : Nibble) (nnn : Addr) : nnnOf (encodeFA op nnn) = nnn := by
  apply BitVec.eq_of_toNat_eq
  have := nnn.isLt
  rw [toNat_nnnOf, toNat_encodeFA]
  omega

@[simp] theorem opOf_encodeFXK (op : Nibble) (x : Reg) (kk : Byte) : opOf (encodeFXK op x kk) = op := by
  apply BitVec.eq_of_toNat_eq
  have := kk.isLt
  have := x.isLt
  rw [toNat_opOf, toNat_encodeFXK]
  omega

@[simp] theorem xOf_encodeFXK (op : Nibble) (x : Reg) (kk : Byte) : xOf (encodeFXK op x kk) = x := by
  apply Fin.ext
  have := kk.isLt
  have := x.isLt
  rw [val_xOf, toNat_encodeFXK]
  omega

@[simp] theorem kkOf_encodeFXK (op : Nibble) (x : Reg) (kk : Byte) : kkOf (encodeFXK op x kk) = kk := by
  apply BitVec.eq_of_toNat_eq
  have := kk.isLt
  rw [toNat_kkOf, toNat_encodeFXK]
  omega

@[simp] theorem opOf_encodeFXYN (op : Nibble) (x y : Reg) (n : Nibble) : opOf (encodeFXYN op x y n) = op := by
  apply BitVec.eq_of_toNat_eq
  have := n.isLt
  have := x.isLt
  have := y.isLt
  rw [toNat_opOf, toNat_encodeFXYN]
  omega

@[simp] theorem xOf_encodeFXYN (op : Nibble) (x y : Reg) (n : Nibble) : xOf (encodeFXYN op x y n) = x := by
  apply Fin.ext
  have := n.isLt
  have := x.isLt
  have := y.isLt
  rw [val_xOf, toNat_encodeFXYN]
  omega

@[simp] theorem yOf_encodeFXYN (op : Nibble) (x y : Reg) (n : Nibble) : yOf (encodeFXYN op x y n) = y := by
  apply Fin.ext
  have := n.isLt
  have := y.isLt
  rw [val_yOf, toNat_encodeFXYN]
  omega

@[simp] theorem nOf_encodeFXYN (op : Nibble) (x y : Reg) (n : Nibble) : nOf (encodeFXYN op x y n) = n := by
  apply BitVec.eq_of_toNat_eq
  have := n.isLt
  rw [toNat_nOf, toNat_encodeFXYN]
  omega

/-! ### A word is made of its fields -/

theorem encodeFA_fields (w : Word) : encodeFA (opOf w) (nnnOf w) = w := by
  apply BitVec.eq_of_toNat_eq
  rw [toNat_encodeFA, toNat_opOf, toNat_nnnOf]
  omega

theorem encodeFXK_fields (w : Word) : encodeFXK (opOf w) (xOf w) (kkOf w) = w := by
  apply BitVec.eq_of_toNat_eq
  rw [toNat_encodeFXK, toNat_opOf, val_xOf, toNat_kkOf]
  omega

theorem encodeFXYN_fields (w : Word) : encodeFXYN (opOf w) (xOf w) (yOf w) (nOf w) = w := by
  apply BitVec.eq_of_toNat_eq
  rw [toNat_encodeFXYN, toNat_opOf, val_xOf, val_yOf, toNat_nOf]
  omega

/-- The big-endian word of the bytes of a word is that word (R49). -/
theorem wordOfBytes_bytesOfWord (w : Word) : wordOfBytes (w.extractLsb' 8 8) (w.extractLsb' 0 8) = w := by
  apply BitVec.eq_of_toNat_eq
  rw [wordOfBytes, toNat_append_eq, BitVec.extractLsb'_toNat, BitVec.extractLsb'_toNat, Nat.shiftRight_eq_div_pow,
    Nat.shiftRight_zero]
  have := w.isLt
  omega

theorem tableWord_toNat (w : Word) : tableWord 16 w.toNat = w := by
  apply BitVec.eq_of_toNat_eq
  have := w.isLt
  simp only [tableWord, BitVec.toNat_ofNat]
  omega

end Sys2Proof
end

