-- ==== Sys2Proof/Laws/Memory.lean ====
section
/-! SUPPORT. Reads after writes, and that every memory operation keeps the canonical form. None of the read laws needs the
canonical form as a premise. -/

namespace Sys2Proof.Machine

theorem Memory.read_nil (a : Nat) : Memory.read [] a = Memory.unlisted a := rfl

theorem Memory.read_insert (m : Memory) (a c : Nat) (b : Byte) :
    (Memory.insert m a b).read c = if c = a then b else m.read c := by
  induction m with
  | nil =>
    simp only [Memory.insert, Memory.read]
    split_ifs <;> first | rfl | omega
  | cons cell rest ih =>
    obtain ⟨k, d⟩ := cell
    simp only [Memory.insert]
    split_ifs with h1 h2 <;> simp only [Memory.read, ih] <;> split_ifs <;> first | rfl | omega

theorem Memory.read_erase (m : Memory) (a c : Nat) :
    Memory.read (m.filter (fun cell => cell.1 ≠ a)) c = if c = a then Memory.unlisted a else m.read c := by
  induction m with
  | nil => by_cases h : c = a <;> simp [Memory.read, h]
  | cons cell rest ih =>
    obtain ⟨k, d⟩ := cell
    by_cases hk : k = a
    · simp only [hk, ne_eq, not_true_eq_false, decide_false, Bool.false_eq_true, not_false_eq_true,
        List.filter_cons_of_neg, Memory.read] at ih ⊢
      rw [ih]
      split_ifs <;> first | rfl | omega
    · simp only [ne_eq, hk, not_false_eq_true, decide_true, List.filter_cons_of_pos, Memory.read] at ih ⊢
      rw [ih]
      split_ifs <;> first | rfl | omega

/-- A read after a write gives the value written, at its address, and every other address is left alone. -/
theorem Memory.read_write (m : Memory) (a c : Nat) (b : Byte) :
    (m.write a b).read c = if c = a then b else m.read c := by
  unfold Memory.write
  split_ifs with h1 h2 h2
  · rw [Memory.read_erase, if_pos h2, h1]
  · rw [Memory.read_erase, if_neg h2]
  · rw [Memory.read_insert, if_pos h2]
  · rw [Memory.read_insert, if_neg h2]

/-- What a block of bytes written at a reads as, and that nothing outside it changes. -/
theorem Memory.read_writeBytes (bs : List Byte) (m : Memory) (a c : Nat) :
    (m.writeBytes a bs).read c = if h : a ≤ c ∧ c < a + bs.length then bs[c - a]'(by omega) else m.read c := by
  induction bs generalizing m a with
  | nil => simp [Memory.writeBytes]
  | cons b bs ih =>
    simp only [Memory.writeBytes, ih, List.length_cons]
    by_cases h1 : c = a
    · subst h1
      simp [Memory.read_write]
    · by_cases h2 : a + 1 ≤ c ∧ c < a + 1 + bs.length
      · have h3 : a ≤ c ∧ c < a + (bs.length + 1) := by omega
        have h4 : c - a = (c - (a + 1)) + 1 := by omega
        rw [dif_pos h2, dif_pos h3]
        simp only [h4, List.getElem_cons_succ]
      · have h3 : ¬(a ≤ c ∧ c < a + (bs.length + 1)) := by omega
        rw [dif_neg h2, dif_neg h3, Memory.read_write, if_neg h1]

theorem Memory.read_writeBytes_outside (bs : List Byte) (m : Memory) (a c : Nat) (h : c < a ∨ a + bs.length ≤ c) :
    (m.writeBytes a bs).read c = m.read c := by
  rw [Memory.read_writeBytes, dif_neg (by omega)]

theorem Memory.length_readBytes (m : Memory) (a n : Nat) : (m.readBytes a n).length = n := by
  simp [Memory.readBytes]

theorem Memory.getElem_readBytes (m : Memory) (a n r : Nat) (h : r < (m.readBytes a n).length) :
    (m.readBytes a n)[r] = m.read (a + r) := by
  simp [Memory.readBytes]

/-! ### The canonical form -/

theorem Memory.wf_nil : Memory.wf [] := by simp [Memory.wf]

theorem Memory.wf_tail {c : Host.Cell} {m : Memory} (h : Memory.wf (c :: m)) : Memory.wf m :=
  ⟨(List.pairwise_cons.mp h.1).2, fun d hd => h.2 d (List.mem_cons_of_mem _ hd)⟩

theorem Memory.mem_insert_fst {m : Memory} {a : Nat} {b : Byte} {c : Host.Cell} (h : c ∈ Memory.insert m a b) :
    c = (a, b) ∨ c ∈ m := by
  induction m with
  | nil => simpa [Memory.insert] using h
  | cons cell rest ih =>
    obtain ⟨k, d⟩ := cell
    simp only [Memory.insert] at h
    split_ifs at h with h1 h2
    · simpa using h
    · rcases List.mem_cons.mp h with h | h
      · exact .inl h
      · exact .inr (List.mem_cons_of_mem _ h)
    · rcases List.mem_cons.mp h with h | h
      · exact .inr (h ▸ List.mem_cons_self)
      · exact (ih h).imp_right (List.mem_cons_of_mem _)

theorem Memory.insert_pairwise {m : Memory} (hm : m.Pairwise (fun c d => c.1 < d.1)) (a : Nat) (b : Byte) :
    (Memory.insert m a b).Pairwise (fun c d => c.1 < d.1) := by
  induction m with
  | nil => simp [Memory.insert]
  | cons cell rest ih =>
    obtain ⟨k, d⟩ := cell
    obtain ⟨hk, hrest⟩ := List.pairwise_cons.mp hm
    simp only [Memory.insert]
    split_ifs with h1 h2
    · refine List.pairwise_cons.mpr ⟨fun c hc => ?_, hm⟩
      rcases List.mem_cons.mp hc with rfl | hc
      · exact h1
      · exact h1.trans (hk c hc)
    · exact List.pairwise_cons.mpr ⟨fun c hc => h2 ▸ hk c hc, hrest⟩
    · refine List.pairwise_cons.mpr ⟨fun c hc => ?_, ih hrest⟩
      rcases Memory.mem_insert_fst hc with rfl | hc
      · show k < a
        omega
      · exact hk c hc

/-- A write below 4096 keeps the canonical form. -/
theorem Memory.write_wf {m : Memory} (hm : m.wf) {a : Nat} (ha : a < Config.memSize) (b : Byte) : (m.write a b).wf := by
  unfold Memory.write
  split_ifs with h
  · exact ⟨hm.1.filter _, fun c hc => hm.2 c (List.mem_filter.mp hc).1⟩
  · refine ⟨Memory.insert_pairwise hm.1 a b, fun c hc => ?_⟩
    rcases Memory.mem_insert_fst hc with rfl | hc
    · exact ⟨ha, h⟩
    · exact hm.2 c hc

/-- A block write that ends by 4096 keeps the canonical form. -/
theorem Memory.writeBytes_wf (bs : List Byte) {m : Memory} (hm : m.wf) {a : Nat} (ha : a + bs.length ≤ Config.memSize) :
    (m.writeBytes a bs).wf := by
  induction bs generalizing m a with
  | nil => exact hm
  | cons b bs ih =>
    simp only [List.length_cons] at ha
    exact ih (Memory.write_wf hm (by omega) b) (by omega)

theorem Memory.loadPort_wf {m : Memory} (hm : m.wf) (address : Word) (bytes : List Byte) : (loadPort m address bytes).2.wf := by
  unfold loadPort
  split_ifs with h
  · exact hm
  · exact Memory.writeBytes_wf bytes hm (by omega)

theorem Memory.length_fontBytes (font : Config.Font) : (fontBytes font).length = Config.fontBytes := by
  simp [fontBytes, List.length_flatMap, Config.fontBytes]

/-- A list of glyphs in address order, one byte of it. -/
theorem glyphs_getElem? (gs : List (Vector Byte 5)) (g b : Nat) (hb : b < 5) :
    (gs.flatMap (fun v => v.toList))[5 * g + b]? = gs[g]?.map (fun v => v[b]) := by
  induction gs generalizing g with
  | nil => simp
  | cons v rest ih =>
    rw [List.flatMap_cons]
    cases g with
    | zero =>
      rw [List.getElem?_append_left (by simpa using hb)]
      simp [hb]
    | succ g =>
      rw [List.getElem?_append_right (by simp; omega), Vector.length_toList, show 5 * (g + 1) + b - 5 = 5 * g + b by omega, ih]
      simp

/-- Byte b of glyph g of a font, at its offset in address order (R47). -/
theorem fontBytes_getElem (font : Config.Font) (g : Fin 16) (b : Fin 5) (h : 5 * g.val + b.val < (fontBytes font).length) :
    (fontBytes font)[5 * g.val + b.val] = font[g][b] := by
  have := glyphs_getElem? font.toList g b b.isLt
  rw [← Option.some_inj, ← List.getElem?_eq_getElem, fontBytes, this]
  simp

theorem Memory.construct_wf (font : Config.Font) (powerOn : Nat → Byte) : (Memory.construct font powerOn).wf := by
  refine Memory.writeBytes_wf _ (Memory.writeBytes_wf _ Memory.wf_nil ?_) ?_
  · simp [Config.fontBytes, Config.memSize]
  · rw [Memory.length_fontBytes]
    simp [Config.fontBase, Config.fontBytes, Config.memSize]

/-- Writing to empty memory what it reads as already leaves it empty. -/
theorem Memory.writeBytes_nil (bs : List Byte) (a : Nat)
    (h : ∀ r : Nat, (hr : r < bs.length) → bs[r] = Memory.unlisted (a + r)) : Memory.writeBytes [] a bs = [] := by
  induction bs generalizing a with
  | nil => rfl
  | cons b bs ih =>
    have h0 : b = Memory.unlisted a := h 0 (Nat.succ_pos _)
    have hw : Memory.write [] a b = [] := by simp [Memory.write, h0]
    simp only [Memory.writeBytes, hw]
    refine ih (a + 1) fun r hr => ?_
    have := h (r + 1) (by simpa using hr)
    simpa [Nat.add_assoc, Nat.add_comm 1 r] using this

/-- State.reset is construction with the default FONT, power-on bytes 0x00, no key pressed and STEP for ever (log 1, 3, 4, 5). -/
theorem construct_default :
    State.construct Config.defaultFont (fun _ => Config.powerOnByte) 0 [] (.repeats .step []) = State.reset := by
  have hpower : Memory.writeBytes [] Config.fontBytes
      ((List.range' Config.fontBytes (Config.memSize - Config.fontBytes)).map (fun _ => Config.powerOnByte)) = [] := by
    refine Memory.writeBytes_nil _ _ fun r hr => ?_
    have : ¬Config.fontBytes + r < 80 := by simp [Config.fontBytes]
    simp [Memory.unlisted, this]
  have hfont : Memory.writeBytes [] Config.fontBase (fontBytes Config.defaultFont) = [] := by decide
  unfold State.construct Memory.construct
  rw [hpower, hfont]
  rfl

end Sys2Proof.Machine
end

