-- ==== Sys2Proof/Laws/Operands.lean ====
section
/-! SUPPORT. One lemma per operand or flag computation, in terms of numbers and bits. -/

namespace Sys2Proof.Machine

theorem rangeOk_iff (a n : Nat) : rangeOk a n = true ↔ n = 0 ∨ a + n - 1 ≤ 0xFFF := by
  simp [rangeOk]

theorem keyIndexBad_iff (b : Byte) : keyIndexBad b = true ↔ b.toNat > 15 := by
  simp [keyIndexBad]

theorem toNat_addrOperand (nnn : Addr) : (addrOperand nnn).toNat = nnn.toNat := by
  have := nnn.isLt
  simp only [addrOperand, BitVec.zeroExtend_eq_setWidth, BitVec.toNat_setWidth]
  omega

theorem toNat_wordOfByte (b : Byte) : (wordOfByte b).toNat = b.toNat := by
  have := b.isLt
  simp only [wordOfByte, BitVec.zeroExtend_eq_setWidth, BitVec.toNat_setWidth]
  omega

/-- The sum of an address operand and a byte never wraps (R99). -/
theorem toNat_jumpSum (nnn : Addr) (b : Byte) : (addrOperand nnn + wordOfByte b).toNat = nnn.toNat + b.toNat := by
  have := nnn.isLt
  have := b.isLt
  rw [BitVec.toNat_add, toNat_addrOperand, toNat_wordOfByte]
  omega

theorem toNat_glyphAddress (b : Byte) : (glyphAddress b).toNat = b.toNat * 5 := by
  have := b.isLt
  simp only [glyphAddress, Config.fontBase, Config.glyphBytes, BitVec.toNat_ofNat]
  omega

theorem length_bcdDigits (b : Byte) : (bcdDigits b).length = 3 := rfl

theorem length_regsUpTo (s : State) (x : Reg) : (s.regsUpTo x).length = x.val + 1 := by
  simp only [State.regsUpTo, List.length_take, Vector.length_toList]
  omega

theorem getElem_regsUpTo (s : State) (x r : Reg) (h : r.val < (s.regsUpTo x).length) : (s.regsUpTo x)[r.val] = s.v[r] := by
  simp [State.regsUpTo]

theorem highestKeyBelow_none (keys : Word) (n : Nat) :
    highestKeyBelow keys n = none ↔ ∀ k, k < n → keys.getLsbD k = false := by
  induction n with
  | zero => simp [highestKeyBelow]
  | succ n ih =>
    simp only [highestKeyBelow]
    split_ifs with h
    · exact ⟨fun hn => by simp at hn, fun hall => by simp [hall n (by omega)] at h⟩
    · rw [ih]
      refine ⟨fun hall k hk => ?_, fun hall k hk => hall k (by omega)⟩
      rcases Nat.lt_succ_iff_lt_or_eq.mp hk with hlt | rfl
      · exact hall k hlt
      · simpa using h

theorem highestKeyBelow_some (keys : Word) (n : Nat) (hn : n ≤ 16) (b : Byte) (h : highestKeyBelow keys n = some b) :
    b.toNat < n ∧ keys.getLsbD b.toNat = true ∧ ∀ k, k < n → keys.getLsbD k = true → k ≤ b.toNat := by
  induction n with
  | zero => simp [highestKeyBelow] at h
  | succ n ih =>
    simp only [highestKeyBelow] at h
    split_ifs at h with hset
    · obtain rfl : BitVec.ofNat 8 n = b := by simpa using h
      have hb : (BitVec.ofNat 8 n).toNat = n := by
        rw [BitVec.toNat_ofNat]
        omega
      exact ⟨by omega, by rwa [hb], fun k hk _ => by omega⟩
    · obtain ⟨hlt, hbit, hmax⟩ := ih (by omega) h
      refine ⟨by omega, hbit, fun k hk hk' => ?_⟩
      rcases Nat.lt_succ_iff_lt_or_eq.mp hk with hlt' | rfl
      · exact hmax k hlt' hk'
      · exact absurd hk' hset

theorem getLsbD_word_lt (keys : Word) (k : Nat) (h : keys.getLsbD k = true) : k < 16 := by
  by_contra hge
  rw [BitVec.getLsbD_of_ge _ _ (by omega)] at h
  exact absurd h (by decide)

/-- No key is found exactly when the snapshot is 0x0000 (R153). -/
theorem highestKey_none_iff (keys : Word) : highestKey keys = none ↔ keys = 0 := by
  rw [highestKey, highestKeyBelow_none]
  constructor
  · intro hall
    apply BitVec.eq_of_getLsbD_eq
    intro k hk
    simpa using hall k hk
  · rintro rfl k -
    simp

/-- The key found is pressed, and no pressed key is higher (R153). -/
theorem highestKey_some (keys : Word) (b : Byte) (h : highestKey keys = some b) :
    b.toNat ≤ 15 ∧ keys.getLsbD b.toNat = true ∧ ∀ k, keys.getLsbD k = true → k ≤ b.toNat := by
  obtain ⟨hlt, hset, hmax⟩ := highestKeyBelow_some keys 16 (by omega) b h
  exact ⟨by omega, hset, fun k hk => hmax k (getLsbD_word_lt keys k hk) hk⟩

theorem carryFlag_iff (a b : Byte) : carryFlag a b = true ↔ a.toNat + b.toNat ≥ 256 := by
  simp [carryFlag]

theorem greaterFlag_iff (a b : Byte) : greaterFlag a b = true ↔ a.toNat > b.toNat := by
  simp [greaterFlag]

/-- The shift flags as numbers: the old bit 0 and the old bit 7 (R118, R120). -/
theorem toNat_shiftFlags (a : Byte) :
    (if shiftRightFlag a then (0x01 : Byte) else 0x00).toNat = a.toNat % 2 ∧
    (if shiftLeftFlag a then (0x01 : Byte) else 0x00).toNat = a.toNat / 128 := by
  revert a
  decide

end Sys2Proof.Machine
end

