-- ==== Sys2Proof/Laws/PerInstr.lean ====
section
/-! SUPPORT. The per-instruction family EncodedFamily: the high nibble of an instruction's word is its family's (R76). -/

namespace Sys2Proof.Laws.EncodedFamily

/-- The family nibble of R76's first column; a no-op word keeps its own. -/
def family : Instr → Nibble
  | .cls => 0x0
  | .ret => 0x0
  | .sysNnn _ => 0x0
  | .jpNnn _ => 0x1
  | .callNnn _ => 0x2
  | .seVxKk _ _ => 0x3
  | .sneVxKk _ _ => 0x4
  | .seVxVy _ _ => 0x5
  | .ldVxKk _ _ => 0x6
  | .addVxKk _ _ => 0x7
  | .ldVxVy _ _ => 0x8
  | .orVxVy _ _ => 0x8
  | .andVxVy _ _ => 0x8
  | .xorVxVy _ _ => 0x8
  | .addVxVy _ _ => 0x8
  | .subVxVy _ _ => 0x8
  | .shrVx _ _ => 0x8
  | .subnVxVy _ _ => 0x8
  | .shlVx _ _ => 0x8
  | .sneVxVy _ _ => 0x9
  | .ldINnn _ => 0xa
  | .jpV0Nnn _ => 0xb
  | .rndVxKk _ _ => 0xc
  | .drwVxVyN _ _ _ => 0xd
  | .skpVx _ => 0xe
  | .sknpVx _ => 0xe
  | .ldVxDt _ => 0xf
  | .ldVxK _ => 0xf
  | .ldDtVx _ => 0xf
  | .ldStVx _ => 0xf
  | .addIVx _ => 0xf
  | .ldFVx _ => 0xf
  | .ldBVx _ => 0xf
  | .ldMemVx _ => 0xf
  | .ldVxMem _ => 0xf
  | .noop w => opOf w

/-- The encoded word stands in the instruction's family. -/
def Statement (i : Instr) : Prop := opOf (encode i) = family i

theorem cls : Statement .cls := by
  unfold Statement
  decide

theorem ret : Statement .ret := by
  unfold Statement
  decide

theorem sysNnn (nnn : Addr) : Statement (.sysNnn nnn) := opOf_encodeFA 0x0 nnn

theorem jpNnn (nnn : Addr) : Statement (.jpNnn nnn) := opOf_encodeFA 0x1 nnn

theorem callNnn (nnn : Addr) : Statement (.callNnn nnn) := opOf_encodeFA 0x2 nnn

theorem seVxKk (x : Reg) (kk : Byte) : Statement (.seVxKk x kk) := opOf_encodeFXK 0x3 x _

theorem sneVxKk (x : Reg) (kk : Byte) : Statement (.sneVxKk x kk) := opOf_encodeFXK 0x4 x _

theorem seVxVy (x : Reg) (y : Reg) : Statement (.seVxVy x y) := opOf_encodeFXYN 0x5 x y _

theorem ldVxKk (x : Reg) (kk : Byte) : Statement (.ldVxKk x kk) := opOf_encodeFXK 0x6 x _

theorem addVxKk (x : Reg) (kk : Byte) : Statement (.addVxKk x kk) := opOf_encodeFXK 0x7 x _

theorem ldVxVy (x : Reg) (y : Reg) : Statement (.ldVxVy x y) := opOf_encodeFXYN 0x8 x y _

theorem orVxVy (x : Reg) (y : Reg) : Statement (.orVxVy x y) := opOf_encodeFXYN 0x8 x y _

theorem andVxVy (x : Reg) (y : Reg) : Statement (.andVxVy x y) := opOf_encodeFXYN 0x8 x y _

theorem xorVxVy (x : Reg) (y : Reg) : Statement (.xorVxVy x y) := opOf_encodeFXYN 0x8 x y _

theorem addVxVy (x : Reg) (y : Reg) : Statement (.addVxVy x y) := opOf_encodeFXYN 0x8 x y _

theorem subVxVy (x : Reg) (y : Reg) : Statement (.subVxVy x y) := opOf_encodeFXYN 0x8 x y _

theorem shrVx (x : Reg) (y : Reg) : Statement (.shrVx x y) := opOf_encodeFXYN 0x8 x y _

theorem subnVxVy (x : Reg) (y : Reg) : Statement (.subnVxVy x y) := opOf_encodeFXYN 0x8 x y _

theorem shlVx (x : Reg) (y : Reg) : Statement (.shlVx x y) := opOf_encodeFXYN 0x8 x y _

theorem sneVxVy (x : Reg) (y : Reg) : Statement (.sneVxVy x y) := opOf_encodeFXYN 0x9 x y _

theorem ldINnn (nnn : Addr) : Statement (.ldINnn nnn) := opOf_encodeFA 0xa nnn

theorem jpV0Nnn (nnn : Addr) : Statement (.jpV0Nnn nnn) := opOf_encodeFA 0xb nnn

theorem rndVxKk (x : Reg) (kk : Byte) : Statement (.rndVxKk x kk) := opOf_encodeFXK 0xc x _

theorem drwVxVyN (x : Reg) (y : Reg) (n : Nibble) : Statement (.drwVxVyN x y n) := opOf_encodeFXYN 0xd x y _

theorem skpVx (x : Reg) : Statement (.skpVx x) := opOf_encodeFXK 0xe x _

theorem sknpVx (x : Reg) : Statement (.sknpVx x) := opOf_encodeFXK 0xe x _

theorem ldVxDt (x : Reg) : Statement (.ldVxDt x) := opOf_encodeFXK 0xf x _

theorem ldVxK (x : Reg) : Statement (.ldVxK x) := opOf_encodeFXK 0xf x _

theorem ldDtVx (x : Reg) : Statement (.ldDtVx x) := opOf_encodeFXK 0xf x _

theorem ldStVx (x : Reg) : Statement (.ldStVx x) := opOf_encodeFXK 0xf x _

theorem addIVx (x : Reg) : Statement (.addIVx x) := opOf_encodeFXK 0xf x _

theorem ldFVx (x : Reg) : Statement (.ldFVx x) := opOf_encodeFXK 0xf x _

theorem ldBVx (x : Reg) : Statement (.ldBVx x) := opOf_encodeFXK 0xf x _

theorem ldMemVx (x : Reg) : Statement (.ldMemVx x) := opOf_encodeFXK 0xf x _

theorem ldVxMem (x : Reg) : Statement (.ldVxMem x) := opOf_encodeFXK 0xf x _

theorem noop (w : Word) : Statement (.noop w) := rfl

end Sys2Proof.Laws.EncodedFamily
end

