-- ==== Sys2Proof/Laws/Sprite.lean ====
section
/-! SUPPORT. What the sprite unit does to each pixel and when it reports a collision (spec/42_index_random_draw.md R132, R134):
one lemma for a pixel, one for a row, one for a whole sprite of fewer than 32 rows. No pixel is touched twice, since 8 columns
are fewer than 64 and the rows are fewer than 32. -/

namespace Sys2Proof.Machine

theorem plot_pixel (acc : FrameBuffer × Bool) (py qy : Fin 32) (px qx : Fin 64) :
    (FrameBuffer.plot acc py px).1[qy][qx] = if qy = py ∧ qx = px then !acc.1[qy][qx] else acc.1[qy][qx] := by
  by_cases hy : qy = py
  · subst hy
    by_cases hx : qx = px
    · subst hx
      simp [FrameBuffer.plot]
    · have hx' : px.val ≠ qx.val := fun e => hx (Fin.ext e.symm)
      simp [FrameBuffer.plot, hx, hx']
  · have hy' : py.val ≠ qy.val := fun e => hy (Fin.ext e.symm)
    simp [FrameBuffer.plot, hy, hy']

theorem plot_flag (acc : FrameBuffer × Bool) (py : Fin 32) (px : Fin 64) :
    (FrameBuffer.plot acc py px).2 = (acc.2 || acc.1[py][px]) := rfl

/-- The first m columns of sprite row b at row y cover column px of row py. -/
def RowCovers (b : Byte) (x0 y m : Nat) (py : Fin 32) (px : Fin 64) : Prop :=
  y % 32 = py.val ∧ ∃ col : Nat, col < m ∧ b.getLsbD (7 - col) = true ∧ (x0 + col) % 64 = px.val

/-- The first m columns of one sprite row: the pixels they cover flip, the others stay, and the flag is raised when a
covered pixel was set. -/
theorem drawColumns_spec (b : Byte) (x0 y m : Nat) (hm : m ≤ 64) (acc : FrameBuffer × Bool) :
    (∀ py px, RowCovers b x0 y m py px → (FrameBuffer.drawColumns b x0 y m acc).1[py][px] = !acc.1[py][px]) ∧
    (∀ py px, ¬RowCovers b x0 y m py px → (FrameBuffer.drawColumns b x0 y m acc).1[py][px] = acc.1[py][px]) ∧
    ((FrameBuffer.drawColumns b x0 y m acc).2 = true ↔
      acc.2 = true ∨ ∃ py px, RowCovers b x0 y m py px ∧ acc.1[py][px] = true) := by
  induction m with
  | zero => simp [RowCovers, FrameBuffer.drawColumns]
  | succ m ih =>
    obtain ⟨hflip, hkeep, hflag⟩ := ih (by omega)
    simp only [FrameBuffer.drawColumns]
    have grow : ∀ py px, RowCovers b x0 y (m + 1) py px ↔ RowCovers b x0 y m py px ∨
        (y % 32 = py.val ∧ b.getLsbD (7 - m) = true ∧ (x0 + m) % 64 = px.val) := by
      intro py px
      constructor
      · rintro ⟨hy, col, hcol, hbit, hx⟩
        rcases Nat.lt_succ_iff_lt_or_eq.mp hcol with h | rfl
        · exact .inl ⟨hy, col, h, hbit, hx⟩
        · exact .inr ⟨hy, hbit, hx⟩
      · rintro (⟨hy, col, hcol, hbit, hx⟩ | ⟨hy, hbit, hx⟩)
        · exact ⟨hy, col, by omega, hbit, hx⟩
        · exact ⟨hy, m, by omega, hbit, hx⟩
    by_cases hbit : b.getLsbD (7 - m) = true
    · simp only [hbit, if_true, true_and] at grow ⊢
      have here : ∀ (py : Fin 32) (px : Fin 64), (py = Fin.ofNat 32 y ∧ px = Fin.ofNat 64 (x0 + m)) ↔
          (y % 32 = py.val ∧ (x0 + m) % 64 = px.val) := by
        intro py px
        simp [Fin.ext_iff, eq_comm]
      have fresh : ∀ py px, (y % 32 = py.val ∧ (x0 + m) % 64 = px.val) → ¬RowCovers b x0 y m py px := by
        rintro py px ⟨-, hx⟩ ⟨-, col, hcol, -, hx'⟩
        omega
      refine ⟨fun py px hc => ?_, fun py px hc => ?_, ?_⟩
      · rw [plot_pixel]
        simp only [here]
        rcases (grow py px).mp hc with h | h
        · rw [if_neg (fun hh => fresh py px hh h), hflip py px h]
        · rw [if_pos h, hkeep py px (fresh py px h)]
      · rw [plot_pixel]
        simp only [here]
        rw [grow, not_or] at hc
        rw [if_neg hc.2, hkeep py px hc.1]
      · have hpix := hkeep (Fin.ofNat 32 y) (Fin.ofNat 64 (x0 + m)) (fresh _ _ (by simp))
        rw [plot_flag, Bool.or_eq_true, hflag, hpix]
        constructor
        · rintro ((h | ⟨py, px, h, h'⟩) | h)
          · exact .inl h
          · exact .inr ⟨py, px, (grow py px).mpr (.inl h), h'⟩
          · exact .inr ⟨_, _, (grow _ _).mpr (.inr (by simp)), h⟩
        · rintro (h | ⟨py, px, h, h'⟩)
          · exact .inl (.inl h)
          · rcases (grow py px).mp h with h | h
            · exact .inl (.inr ⟨py, px, h, h'⟩)
            · obtain ⟨rfl, rfl⟩ := (here py px).mpr h
              exact .inr h'
    · have same : ∀ py px, RowCovers b x0 y (m + 1) py px ↔ RowCovers b x0 y m py px := by
        intro py px
        rw [grow]
        simp [hbit]
      simp only [hbit, Bool.false_eq_true, if_false, same]
      exact ⟨hflip, hkeep, hflag⟩

/-- One sprite row: the pixels it covers flip, the others stay, and the flag is raised when a covered pixel was set. -/
theorem drawRow_spec (b : Byte) (x0 y : Nat) (acc : FrameBuffer × Bool) :
    (∀ py px, RowCovers b x0 y 8 py px → (FrameBuffer.drawRow b x0 y acc).1[py][px] = !acc.1[py][px]) ∧
    (∀ py px, ¬RowCovers b x0 y 8 py px → (FrameBuffer.drawRow b x0 y acc).1[py][px] = acc.1[py][px]) ∧
    ((FrameBuffer.drawRow b x0 y acc).2 = true ↔
      acc.2 = true ∨ ∃ py px, RowCovers b x0 y 8 py px ∧ acc.1[py][px] = true) :=
  drawColumns_spec b x0 y 8 (by omega) acc

/-- The sprite rows bs at rows y, y + 1, ... cover column px of row py. -/
def RowsCover (bs : List Byte) (x0 y : Nat) (py : Fin 32) (px : Fin 64) : Prop :=
  ∃ r : Nat, ∃ h : r < bs.length, RowCovers bs[r] x0 (y + r) 8 py px

theorem rowsCover_cons (b : Byte) (bs : List Byte) (x0 y : Nat) (py : Fin 32) (px : Fin 64) :
    RowsCover (b :: bs) x0 y py px ↔ RowCovers b x0 y 8 py px ∨ RowsCover bs x0 (y + 1) py px := by
  constructor
  · rintro ⟨r, h, hc⟩
    cases r with
    | zero => exact .inl (by simpa using hc)
    | succ r => exact .inr ⟨r, by simpa using h, by simpa [Nat.add_assoc, Nat.add_comm 1 r] using hc⟩
  · rintro (hc | ⟨r, h, hc⟩)
    · exact ⟨0, by simp, by simpa using hc⟩
    · exact ⟨r + 1, by simpa using h, by simpa [Nat.add_assoc, Nat.add_comm 1 r] using hc⟩

/-- A whole sprite of fewer than 32 rows: the pixels it covers flip, the others stay, and the flag is raised when a covered
pixel was set. -/
theorem drawRows_spec (bs : List Byte) (x0 y : Nat) (hlen : bs.length < 32) (acc : FrameBuffer × Bool) :
    (∀ py px, RowsCover bs x0 y py px → (FrameBuffer.drawRows bs x0 y acc).1[py][px] = !acc.1[py][px]) ∧
    (∀ py px, ¬RowsCover bs x0 y py px → (FrameBuffer.drawRows bs x0 y acc).1[py][px] = acc.1[py][px]) ∧
    ((FrameBuffer.drawRows bs x0 y acc).2 = true ↔
      acc.2 = true ∨ ∃ py px, RowsCover bs x0 y py px ∧ acc.1[py][px] = true) := by
  induction bs generalizing y acc with
  | nil => simp [FrameBuffer.drawRows, RowsCover]
  | cons b bs ih =>
    simp only [List.length_cons] at hlen
    obtain ⟨flip1, keep1, flag1⟩ := drawRow_spec b x0 y acc
    obtain ⟨flip2, keep2, flag2⟩ := ih (y + 1) (by omega) (FrameBuffer.drawRow b x0 y acc)
    have apart : ∀ py px, RowCovers b x0 y 8 py px → ¬RowsCover bs x0 (y + 1) py px := by
      rintro py px ⟨hy, -⟩ ⟨r, hr, ⟨hy', -⟩⟩
      omega
    simp only [FrameBuffer.drawRows, rowsCover_cons]
    refine ⟨fun py px hc => ?_, fun py px hc => ?_, ?_⟩
    · rcases hc with h | h
      · rw [keep2 py px (apart py px h), flip1 py px h]
      · rw [flip2 py px h, keep1 py px (fun h' => apart py px h' h)]
    · rw [not_or] at hc
      rw [keep2 py px hc.2, keep1 py px hc.1]
    · rw [flag2, flag1]
      constructor
      · rintro ((h | ⟨py, px, h, h'⟩) | ⟨py, px, h, h'⟩)
        · exact .inl h
        · exact .inr ⟨py, px, .inl h, h'⟩
        · exact .inr ⟨py, px, .inr h, by rwa [keep1 py px (fun h'' => apart py px h'' h)] at h'⟩
      · rintro (h | ⟨py, px, h | h, h'⟩)
        · exact .inl (.inl h)
        · exact .inl (.inr ⟨py, px, h, h'⟩)
        · exact .inr ⟨py, px, h, by rwa [keep1 py px (fun h'' => apart py px h'' h)]⟩

/-- The pixels of DRW's sprite, as claims name them and as the draw computes them. -/
theorem rowsCover_iff_spriteCovers (s : State) (x y : Reg) (n : Nibble) (py : Fin 32) (px : Fin 64) :
    RowsCover (s.mem.readBytes s.i.toNat n.toNat) s.v[x].toNat s.v[y].toNat py px ↔ SpriteCovers s x y n py px := by
  constructor
  · rintro ⟨r, h, hy, col, hcol, hbit, hx⟩
    rw [Memory.length_readBytes] at h
    rw [Memory.getElem_readBytes] at hbit
    exact ⟨r, col, h, hcol, hbit, hy, hx⟩
  · rintro ⟨r, col, h, hcol, hbit, hy, hx⟩
    exact ⟨r, by rwa [Memory.length_readBytes], hy, col, hcol, by rwa [Memory.getElem_readBytes], hx⟩

/-- Frame buffers that agree on every pixel are equal. -/
theorem frameBuffer_ext {f g : FrameBuffer} (h : ∀ (py : Fin 32) (px : Fin 64), f[py][px] = g[py][px]) : f = g :=
  Vector.ext fun i hi => Vector.ext fun j hj => h ⟨i, hi⟩ ⟨j, hj⟩

end Sys2Proof.Machine
end

