-- ==== Sys2Proof/Laws/State.lean ====
section
/-! SUPPORT. One lemma per field per update of the state, and what each register operation reads back as. -/

namespace Sys2Proof.Machine

/-! ### setV -/

@[simp] theorem setV_v (s : State) (x : Reg) (b : Byte) : (s.setV x b).v = s.v.set x b := rfl
@[simp] theorem setV_i (s : State) (x : Reg) (b : Byte) : (s.setV x b).i = s.i := rfl
@[simp] theorem setV_pc (s : State) (x : Reg) (b : Byte) : (s.setV x b).pc = s.pc := rfl
@[simp] theorem setV_sp (s : State) (x : Reg) (b : Byte) : (s.setV x b).sp = s.sp := rfl
@[simp] theorem setV_stack (s : State) (x : Reg) (b : Byte) : (s.setV x b).stack = s.stack := rfl
@[simp] theorem setV_dt (s : State) (x : Reg) (b : Byte) : (s.setV x b).dt = s.dt := rfl
@[simp] theorem setV_st (s : State) (x : Reg) (b : Byte) : (s.setV x b).st = s.st := rfl
@[simp] theorem setV_fb (s : State) (x : Reg) (b : Byte) : (s.setV x b).fb = s.fb := rfl
@[simp] theorem setV_dirty (s : State) (x : Reg) (b : Byte) : (s.setV x b).dirty = s.dirty := rfl
@[simp] theorem setV_runState (s : State) (x : Reg) (b : Byte) : (s.setV x b).runState = s.runState := rfl
@[simp] theorem setV_faultCode (s : State) (x : Reg) (b : Byte) : (s.setV x b).faultCode = s.faultCode := rfl
@[simp] theorem setV_faultPc (s : State) (x : Reg) (b : Byte) : (s.setV x b).faultPc = s.faultPc := rfl
@[simp] theorem setV_faultOp (s : State) (x : Reg) (b : Byte) : (s.setV x b).faultOp = s.faultOp := rfl
@[simp] theorem setV_mem (s : State) (x : Reg) (b : Byte) : (s.setV x b).mem = s.mem := rfl
@[simp] theorem setV_keys (s : State) (x : Reg) (b : Byte) : (s.setV x b).keys = s.keys := rfl
@[simp] theorem setV_draws (s : State) (x : Reg) (b : Byte) : (s.setV x b).draws = s.draws := rfl
@[simp] theorem setV_schedule (s : State) (x : Reg) (b : Byte) : (s.setV x b).schedule = s.schedule := rfl
@[simp] theorem setV_later (s : State) (x : Reg) (b : Byte) : (s.setV x b).later = s.later := rfl
@[simp] theorem setV_loadResult (s : State) (x : Reg) (b : Byte) : (s.setV x b).loadResult = s.loadResult := rfl

/-! ### setFlag -/

@[simp] theorem setFlag_v (s : State) (f : Bool) : (s.setFlag f).v = s.v.set 15 (if f then 0x01 else 0x00) := rfl
@[simp] theorem setFlag_i (s : State) (f : Bool) : (s.setFlag f).i = s.i := rfl
@[simp] theorem setFlag_pc (s : State) (f : Bool) : (s.setFlag f).pc = s.pc := rfl
@[simp] theorem setFlag_sp (s : State) (f : Bool) : (s.setFlag f).sp = s.sp := rfl
@[simp] theorem setFlag_stack (s : State) (f : Bool) : (s.setFlag f).stack = s.stack := rfl
@[simp] theorem setFlag_dt (s : State) (f : Bool) : (s.setFlag f).dt = s.dt := rfl
@[simp] theorem setFlag_st (s : State) (f : Bool) : (s.setFlag f).st = s.st := rfl
@[simp] theorem setFlag_fb (s : State) (f : Bool) : (s.setFlag f).fb = s.fb := rfl
@[simp] theorem setFlag_dirty (s : State) (f : Bool) : (s.setFlag f).dirty = s.dirty := rfl
@[simp] theorem setFlag_runState (s : State) (f : Bool) : (s.setFlag f).runState = s.runState := rfl
@[simp] theorem setFlag_faultCode (s : State) (f : Bool) : (s.setFlag f).faultCode = s.faultCode := rfl
@[simp] theorem setFlag_faultPc (s : State) (f : Bool) : (s.setFlag f).faultPc = s.faultPc := rfl
@[simp] theorem setFlag_faultOp (s : State) (f : Bool) : (s.setFlag f).faultOp = s.faultOp := rfl
@[simp] theorem setFlag_mem (s : State) (f : Bool) : (s.setFlag f).mem = s.mem := rfl
@[simp] theorem setFlag_keys (s : State) (f : Bool) : (s.setFlag f).keys = s.keys := rfl
@[simp] theorem setFlag_draws (s : State) (f : Bool) : (s.setFlag f).draws = s.draws := rfl
@[simp] theorem setFlag_schedule (s : State) (f : Bool) : (s.setFlag f).schedule = s.schedule := rfl
@[simp] theorem setFlag_later (s : State) (f : Bool) : (s.setFlag f).later = s.later := rfl
@[simp] theorem setFlag_loadResult (s : State) (f : Bool) : (s.setFlag f).loadResult = s.loadResult := rfl

/-! ### setPc -/

@[simp] theorem setPc_v (s : State) (w : Word) : (s.setPc w).v = s.v := rfl
@[simp] theorem setPc_i (s : State) (w : Word) : (s.setPc w).i = s.i := rfl
@[simp] theorem setPc_pc (s : State) (w : Word) : (s.setPc w).pc = w := rfl
@[simp] theorem setPc_sp (s : State) (w : Word) : (s.setPc w).sp = s.sp := rfl
@[simp] theorem setPc_stack (s : State) (w : Word) : (s.setPc w).stack = s.stack := rfl
@[simp] theorem setPc_dt (s : State) (w : Word) : (s.setPc w).dt = s.dt := rfl
@[simp] theorem setPc_st (s : State) (w : Word) : (s.setPc w).st = s.st := rfl
@[simp] theorem setPc_fb (s : State) (w : Word) : (s.setPc w).fb = s.fb := rfl
@[simp] theorem setPc_dirty (s : State) (w : Word) : (s.setPc w).dirty = s.dirty := rfl
@[simp] theorem setPc_runState (s : State) (w : Word) : (s.setPc w).runState = s.runState := rfl
@[simp] theorem setPc_faultCode (s : State) (w : Word) : (s.setPc w).faultCode = s.faultCode := rfl
@[simp] theorem setPc_faultPc (s : State) (w : Word) : (s.setPc w).faultPc = s.faultPc := rfl
@[simp] theorem setPc_faultOp (s : State) (w : Word) : (s.setPc w).faultOp = s.faultOp := rfl
@[simp] theorem setPc_mem (s : State) (w : Word) : (s.setPc w).mem = s.mem := rfl
@[simp] theorem setPc_keys (s : State) (w : Word) : (s.setPc w).keys = s.keys := rfl
@[simp] theorem setPc_draws (s : State) (w : Word) : (s.setPc w).draws = s.draws := rfl
@[simp] theorem setPc_schedule (s : State) (w : Word) : (s.setPc w).schedule = s.schedule := rfl
@[simp] theorem setPc_later (s : State) (w : Word) : (s.setPc w).later = s.later := rfl
@[simp] theorem setPc_loadResult (s : State) (w : Word) : (s.setPc w).loadResult = s.loadResult := rfl

/-! ### push -/

@[simp] theorem push_v (s : State) (w : Word) : (s.push w).v = s.v := rfl
@[simp] theorem push_i (s : State) (w : Word) : (s.push w).i = s.i := rfl
@[simp] theorem push_pc (s : State) (w : Word) : (s.push w).pc = s.pc := rfl
@[simp] theorem push_sp (s : State) (w : Word) : (s.push w).sp = s.sp + 1 := rfl
@[simp] theorem push_stack (s : State) (w : Word) : (s.push w).stack = s.stack.set (s.sp + 1).toNat w := rfl
@[simp] theorem push_dt (s : State) (w : Word) : (s.push w).dt = s.dt := rfl
@[simp] theorem push_st (s : State) (w : Word) : (s.push w).st = s.st := rfl
@[simp] theorem push_fb (s : State) (w : Word) : (s.push w).fb = s.fb := rfl
@[simp] theorem push_dirty (s : State) (w : Word) : (s.push w).dirty = s.dirty := rfl
@[simp] theorem push_runState (s : State) (w : Word) : (s.push w).runState = s.runState := rfl
@[simp] theorem push_faultCode (s : State) (w : Word) : (s.push w).faultCode = s.faultCode := rfl
@[simp] theorem push_faultPc (s : State) (w : Word) : (s.push w).faultPc = s.faultPc := rfl
@[simp] theorem push_faultOp (s : State) (w : Word) : (s.push w).faultOp = s.faultOp := rfl
@[simp] theorem push_mem (s : State) (w : Word) : (s.push w).mem = s.mem := rfl
@[simp] theorem push_keys (s : State) (w : Word) : (s.push w).keys = s.keys := rfl
@[simp] theorem push_draws (s : State) (w : Word) : (s.push w).draws = s.draws := rfl
@[simp] theorem push_schedule (s : State) (w : Word) : (s.push w).schedule = s.schedule := rfl
@[simp] theorem push_later (s : State) (w : Word) : (s.push w).later = s.later := rfl
@[simp] theorem push_loadResult (s : State) (w : Word) : (s.push w).loadResult = s.loadResult := rfl

/-! ### pop -/

@[simp] theorem pop_v (s : State) : (s.pop).v = s.v := rfl
@[simp] theorem pop_i (s : State) : (s.pop).i = s.i := rfl
@[simp] theorem pop_pc (s : State) : (s.pop).pc = s.pc := rfl
@[simp] theorem pop_sp (s : State) : (s.pop).sp = s.sp - 1 := rfl
@[simp] theorem pop_stack (s : State) : (s.pop).stack = s.stack := rfl
@[simp] theorem pop_dt (s : State) : (s.pop).dt = s.dt := rfl
@[simp] theorem pop_st (s : State) : (s.pop).st = s.st := rfl
@[simp] theorem pop_fb (s : State) : (s.pop).fb = s.fb := rfl
@[simp] theorem pop_dirty (s : State) : (s.pop).dirty = s.dirty := rfl
@[simp] theorem pop_runState (s : State) : (s.pop).runState = s.runState := rfl
@[simp] theorem pop_faultCode (s : State) : (s.pop).faultCode = s.faultCode := rfl
@[simp] theorem pop_faultPc (s : State) : (s.pop).faultPc = s.faultPc := rfl
@[simp] theorem pop_faultOp (s : State) : (s.pop).faultOp = s.faultOp := rfl
@[simp] theorem pop_mem (s : State) : (s.pop).mem = s.mem := rfl
@[simp] theorem pop_keys (s : State) : (s.pop).keys = s.keys := rfl
@[simp] theorem pop_draws (s : State) : (s.pop).draws = s.draws := rfl
@[simp] theorem pop_schedule (s : State) : (s.pop).schedule = s.schedule := rfl
@[simp] theorem pop_later (s : State) : (s.pop).later = s.later := rfl
@[simp] theorem pop_loadResult (s : State) : (s.pop).loadResult = s.loadResult := rfl

/-! ### loadRegs -/

@[simp] theorem loadRegs_v (s : State) (x : Reg) (a : Nat) : (s.loadRegs x a).v = Vector.ofFn (fun r => if r ≤ x then s.mem.read (a + r.val) else s.v[r]) := by
  simp only [State.loadRegs]
@[simp] theorem loadRegs_i (s : State) (x : Reg) (a : Nat) : (s.loadRegs x a).i = s.i := by
  simp only [State.loadRegs]
@[simp] theorem loadRegs_pc (s : State) (x : Reg) (a : Nat) : (s.loadRegs x a).pc = s.pc := by
  simp only [State.loadRegs]
@[simp] theorem loadRegs_sp (s : State) (x : Reg) (a : Nat) : (s.loadRegs x a).sp = s.sp := by
  simp only [State.loadRegs]
@[simp] theorem loadRegs_stack (s : State) (x : Reg) (a : Nat) : (s.loadRegs x a).stack = s.stack := by
  simp only [State.loadRegs]
@[simp] theorem loadRegs_dt (s : State) (x : Reg) (a : Nat) : (s.loadRegs x a).dt = s.dt := by
  simp only [State.loadRegs]
@[simp] theorem loadRegs_st (s : State) (x : Reg) (a : Nat) : (s.loadRegs x a).st = s.st := by
  simp only [State.loadRegs]
@[simp] theorem loadRegs_fb (s : State) (x : Reg) (a : Nat) : (s.loadRegs x a).fb = s.fb := by
  simp only [State.loadRegs]
@[simp] theorem loadRegs_dirty (s : State) (x : Reg) (a : Nat) : (s.loadRegs x a).dirty = s.dirty := by
  simp only [State.loadRegs]
@[simp] theorem loadRegs_runState (s : State) (x : Reg) (a : Nat) : (s.loadRegs x a).runState = s.runState := by
  simp only [State.loadRegs]
@[simp] theorem loadRegs_faultCode (s : State) (x : Reg) (a : Nat) : (s.loadRegs x a).faultCode = s.faultCode := by
  simp only [State.loadRegs]
@[simp] theorem loadRegs_faultPc (s : State) (x : Reg) (a : Nat) : (s.loadRegs x a).faultPc = s.faultPc := by
  simp only [State.loadRegs]
@[simp] theorem loadRegs_faultOp (s : State) (x : Reg) (a : Nat) : (s.loadRegs x a).faultOp = s.faultOp := by
  simp only [State.loadRegs]
@[simp] theorem loadRegs_mem (s : State) (x : Reg) (a : Nat) : (s.loadRegs x a).mem = s.mem := by
  simp only [State.loadRegs]
@[simp] theorem loadRegs_keys (s : State) (x : Reg) (a : Nat) : (s.loadRegs x a).keys = s.keys := by
  simp only [State.loadRegs]
@[simp] theorem loadRegs_draws (s : State) (x : Reg) (a : Nat) : (s.loadRegs x a).draws = s.draws := by
  simp only [State.loadRegs]
@[simp] theorem loadRegs_schedule (s : State) (x : Reg) (a : Nat) : (s.loadRegs x a).schedule = s.schedule := by
  simp only [State.loadRegs]
@[simp] theorem loadRegs_later (s : State) (x : Reg) (a : Nat) : (s.loadRegs x a).later = s.later := by
  simp only [State.loadRegs]
@[simp] theorem loadRegs_loadResult (s : State) (x : Reg) (a : Nat) : (s.loadRegs x a).loadResult = s.loadResult := by
  simp only [State.loadRegs]

/-! ### handlerEntry -/

@[simp] theorem handlerEntry_v (s : State) : (handlerEntry s).v = s.v := rfl
@[simp] theorem handlerEntry_i (s : State) : (handlerEntry s).i = s.i := rfl
@[simp] theorem handlerEntry_pc (s : State) : (handlerEntry s).pc = s.pc + 2 := rfl
@[simp] theorem handlerEntry_sp (s : State) : (handlerEntry s).sp = s.sp := rfl
@[simp] theorem handlerEntry_stack (s : State) : (handlerEntry s).stack = s.stack := rfl
@[simp] theorem handlerEntry_dt (s : State) : (handlerEntry s).dt = s.dt := rfl
@[simp] theorem handlerEntry_st (s : State) : (handlerEntry s).st = s.st := rfl
@[simp] theorem handlerEntry_fb (s : State) : (handlerEntry s).fb = s.fb := rfl
@[simp] theorem handlerEntry_dirty (s : State) : (handlerEntry s).dirty = s.dirty := rfl
@[simp] theorem handlerEntry_runState (s : State) : (handlerEntry s).runState = .running := rfl
@[simp] theorem handlerEntry_faultCode (s : State) : (handlerEntry s).faultCode = s.faultCode := rfl
@[simp] theorem handlerEntry_faultPc (s : State) : (handlerEntry s).faultPc = s.faultPc := rfl
@[simp] theorem handlerEntry_faultOp (s : State) : (handlerEntry s).faultOp = s.faultOp := rfl
@[simp] theorem handlerEntry_mem (s : State) : (handlerEntry s).mem = s.mem := rfl
@[simp] theorem handlerEntry_keys (s : State) : (handlerEntry s).keys = s.keys := rfl
@[simp] theorem handlerEntry_draws (s : State) : (handlerEntry s).draws = s.draws := rfl
@[simp] theorem handlerEntry_schedule (s : State) : (handlerEntry s).schedule = s.schedule := rfl
@[simp] theorem handlerEntry_later (s : State) : (handlerEntry s).later = s.later := rfl
@[simp] theorem handlerEntry_loadResult (s : State) : (handlerEntry s).loadResult = s.loadResult := rfl

/-! ### takeFault -/

@[simp] theorem takeFault_v (c : FaultCode) (w : Word) (s : State) : (takeFault c w s).v = s.v := rfl
@[simp] theorem takeFault_i (c : FaultCode) (w : Word) (s : State) : (takeFault c w s).i = s.i := rfl
@[simp] theorem takeFault_pc (c : FaultCode) (w : Word) (s : State) : (takeFault c w s).pc = s.pc := rfl
@[simp] theorem takeFault_sp (c : FaultCode) (w : Word) (s : State) : (takeFault c w s).sp = s.sp := rfl
@[simp] theorem takeFault_stack (c : FaultCode) (w : Word) (s : State) : (takeFault c w s).stack = s.stack := rfl
@[simp] theorem takeFault_dt (c : FaultCode) (w : Word) (s : State) : (takeFault c w s).dt = s.dt := rfl
@[simp] theorem takeFault_st (c : FaultCode) (w : Word) (s : State) : (takeFault c w s).st = s.st := rfl
@[simp] theorem takeFault_fb (c : FaultCode) (w : Word) (s : State) : (takeFault c w s).fb = s.fb := rfl
@[simp] theorem takeFault_dirty (c : FaultCode) (w : Word) (s : State) : (takeFault c w s).dirty = s.dirty := rfl
@[simp] theorem takeFault_runState (c : FaultCode) (w : Word) (s : State) : (takeFault c w s).runState = .faulted := rfl
@[simp] theorem takeFault_faultCode (c : FaultCode) (w : Word) (s : State) : (takeFault c w s).faultCode = c := rfl
@[simp] theorem takeFault_faultPc (c : FaultCode) (w : Word) (s : State) : (takeFault c w s).faultPc = s.pc := rfl
@[simp] theorem takeFault_faultOp (c : FaultCode) (w : Word) (s : State) : (takeFault c w s).faultOp = w := rfl
@[simp] theorem takeFault_mem (c : FaultCode) (w : Word) (s : State) : (takeFault c w s).mem = s.mem := rfl
@[simp] theorem takeFault_keys (c : FaultCode) (w : Word) (s : State) : (takeFault c w s).keys = s.keys := rfl
@[simp] theorem takeFault_draws (c : FaultCode) (w : Word) (s : State) : (takeFault c w s).draws = s.draws := rfl
@[simp] theorem takeFault_schedule (c : FaultCode) (w : Word) (s : State) : (takeFault c w s).schedule = s.schedule := rfl
@[simp] theorem takeFault_later (c : FaultCode) (w : Word) (s : State) : (takeFault c w s).later = s.later := rfl
@[simp] theorem takeFault_loadResult (c : FaultCode) (w : Word) (s : State) : (takeFault c w s).loadResult = s.loadResult := rfl

/-! ### tickEvent -/

@[simp] theorem tickEvent_v (s : State) : (tickEvent s).v = s.v := rfl
@[simp] theorem tickEvent_i (s : State) : (tickEvent s).i = s.i := rfl
@[simp] theorem tickEvent_pc (s : State) : (tickEvent s).pc = s.pc := rfl
@[simp] theorem tickEvent_sp (s : State) : (tickEvent s).sp = s.sp := rfl
@[simp] theorem tickEvent_stack (s : State) : (tickEvent s).stack = s.stack := rfl
@[simp] theorem tickEvent_dt (s : State) : (tickEvent s).dt = countDown s.dt := rfl
@[simp] theorem tickEvent_st (s : State) : (tickEvent s).st = countDown s.st := rfl
@[simp] theorem tickEvent_fb (s : State) : (tickEvent s).fb = s.fb := rfl
@[simp] theorem tickEvent_dirty (s : State) : (tickEvent s).dirty = s.dirty := rfl
@[simp] theorem tickEvent_runState (s : State) : (tickEvent s).runState = s.runState := rfl
@[simp] theorem tickEvent_faultCode (s : State) : (tickEvent s).faultCode = s.faultCode := rfl
@[simp] theorem tickEvent_faultPc (s : State) : (tickEvent s).faultPc = s.faultPc := rfl
@[simp] theorem tickEvent_faultOp (s : State) : (tickEvent s).faultOp = s.faultOp := rfl
@[simp] theorem tickEvent_mem (s : State) : (tickEvent s).mem = s.mem := rfl
@[simp] theorem tickEvent_keys (s : State) : (tickEvent s).keys = s.keys := rfl
@[simp] theorem tickEvent_draws (s : State) : (tickEvent s).draws = s.draws := rfl
@[simp] theorem tickEvent_schedule (s : State) : (tickEvent s).schedule = s.schedule := rfl
@[simp] theorem tickEvent_later (s : State) : (tickEvent s).later = s.later := rfl
@[simp] theorem tickEvent_loadResult (s : State) : (tickEvent s).loadResult = s.loadResult := rfl

/-! ### loadEvent -/

@[simp] theorem loadEvent_v (a : Word) (bs : List Byte) (s : State) : (loadEvent a bs s).v = s.v := rfl
@[simp] theorem loadEvent_i (a : Word) (bs : List Byte) (s : State) : (loadEvent a bs s).i = s.i := rfl
@[simp] theorem loadEvent_pc (a : Word) (bs : List Byte) (s : State) : (loadEvent a bs s).pc = s.pc := rfl
@[simp] theorem loadEvent_sp (a : Word) (bs : List Byte) (s : State) : (loadEvent a bs s).sp = s.sp := rfl
@[simp] theorem loadEvent_stack (a : Word) (bs : List Byte) (s : State) : (loadEvent a bs s).stack = s.stack := rfl
@[simp] theorem loadEvent_dt (a : Word) (bs : List Byte) (s : State) : (loadEvent a bs s).dt = s.dt := rfl
@[simp] theorem loadEvent_st (a : Word) (bs : List Byte) (s : State) : (loadEvent a bs s).st = s.st := rfl
@[simp] theorem loadEvent_fb (a : Word) (bs : List Byte) (s : State) : (loadEvent a bs s).fb = s.fb := rfl
@[simp] theorem loadEvent_dirty (a : Word) (bs : List Byte) (s : State) : (loadEvent a bs s).dirty = s.dirty := rfl
@[simp] theorem loadEvent_runState (a : Word) (bs : List Byte) (s : State) : (loadEvent a bs s).runState = s.runState := rfl
@[simp] theorem loadEvent_faultCode (a : Word) (bs : List Byte) (s : State) : (loadEvent a bs s).faultCode = s.faultCode := rfl
@[simp] theorem loadEvent_faultPc (a : Word) (bs : List Byte) (s : State) : (loadEvent a bs s).faultPc = s.faultPc := rfl
@[simp] theorem loadEvent_faultOp (a : Word) (bs : List Byte) (s : State) : (loadEvent a bs s).faultOp = s.faultOp := rfl
@[simp] theorem loadEvent_mem (a : Word) (bs : List Byte) (s : State) : (loadEvent a bs s).mem = (loadPort s.mem a bs).2 := rfl
@[simp] theorem loadEvent_keys (a : Word) (bs : List Byte) (s : State) : (loadEvent a bs s).keys = s.keys := rfl
@[simp] theorem loadEvent_draws (a : Word) (bs : List Byte) (s : State) : (loadEvent a bs s).draws = s.draws := rfl
@[simp] theorem loadEvent_schedule (a : Word) (bs : List Byte) (s : State) : (loadEvent a bs s).schedule = s.schedule := rfl
@[simp] theorem loadEvent_later (a : Word) (bs : List Byte) (s : State) : (loadEvent a bs s).later = s.later := rfl
@[simp] theorem loadEvent_loadResult (a : Word) (bs : List Byte) (s : State) : (loadEvent a bs s).loadResult = some (loadPort s.mem a bs).1 := rfl

/-! ### setKeysEvent -/

@[simp] theorem setKeysEvent_v (k : Word) (s : State) : (setKeysEvent k s).v = s.v := rfl
@[simp] theorem setKeysEvent_i (k : Word) (s : State) : (setKeysEvent k s).i = s.i := rfl
@[simp] theorem setKeysEvent_pc (k : Word) (s : State) : (setKeysEvent k s).pc = s.pc := rfl
@[simp] theorem setKeysEvent_sp (k : Word) (s : State) : (setKeysEvent k s).sp = s.sp := rfl
@[simp] theorem setKeysEvent_stack (k : Word) (s : State) : (setKeysEvent k s).stack = s.stack := rfl
@[simp] theorem setKeysEvent_dt (k : Word) (s : State) : (setKeysEvent k s).dt = s.dt := rfl
@[simp] theorem setKeysEvent_st (k : Word) (s : State) : (setKeysEvent k s).st = s.st := rfl
@[simp] theorem setKeysEvent_fb (k : Word) (s : State) : (setKeysEvent k s).fb = s.fb := rfl
@[simp] theorem setKeysEvent_dirty (k : Word) (s : State) : (setKeysEvent k s).dirty = s.dirty := rfl
@[simp] theorem setKeysEvent_runState (k : Word) (s : State) : (setKeysEvent k s).runState = s.runState := rfl
@[simp] theorem setKeysEvent_faultCode (k : Word) (s : State) : (setKeysEvent k s).faultCode = s.faultCode := rfl
@[simp] theorem setKeysEvent_faultPc (k : Word) (s : State) : (setKeysEvent k s).faultPc = s.faultPc := rfl
@[simp] theorem setKeysEvent_faultOp (k : Word) (s : State) : (setKeysEvent k s).faultOp = s.faultOp := rfl
@[simp] theorem setKeysEvent_mem (k : Word) (s : State) : (setKeysEvent k s).mem = s.mem := rfl
@[simp] theorem setKeysEvent_keys (k : Word) (s : State) : (setKeysEvent k s).keys = k := rfl
@[simp] theorem setKeysEvent_draws (k : Word) (s : State) : (setKeysEvent k s).draws = s.draws := rfl
@[simp] theorem setKeysEvent_schedule (k : Word) (s : State) : (setKeysEvent k s).schedule = s.schedule := rfl
@[simp] theorem setKeysEvent_later (k : Word) (s : State) : (setKeysEvent k s).later = s.later := rfl
@[simp] theorem setKeysEvent_loadResult (k : Word) (s : State) : (setKeysEvent k s).loadResult = s.loadResult := rfl

/-! ### dirtyAckEvent -/

@[simp] theorem dirtyAckEvent_v (s : State) : (dirtyAckEvent s).v = s.v := rfl
@[simp] theorem dirtyAckEvent_i (s : State) : (dirtyAckEvent s).i = s.i := rfl
@[simp] theorem dirtyAckEvent_pc (s : State) : (dirtyAckEvent s).pc = s.pc := rfl
@[simp] theorem dirtyAckEvent_sp (s : State) : (dirtyAckEvent s).sp = s.sp := rfl
@[simp] theorem dirtyAckEvent_stack (s : State) : (dirtyAckEvent s).stack = s.stack := rfl
@[simp] theorem dirtyAckEvent_dt (s : State) : (dirtyAckEvent s).dt = s.dt := rfl
@[simp] theorem dirtyAckEvent_st (s : State) : (dirtyAckEvent s).st = s.st := rfl
@[simp] theorem dirtyAckEvent_fb (s : State) : (dirtyAckEvent s).fb = s.fb := rfl
@[simp] theorem dirtyAckEvent_dirty (s : State) : (dirtyAckEvent s).dirty = false := rfl
@[simp] theorem dirtyAckEvent_runState (s : State) : (dirtyAckEvent s).runState = s.runState := rfl
@[simp] theorem dirtyAckEvent_faultCode (s : State) : (dirtyAckEvent s).faultCode = s.faultCode := rfl
@[simp] theorem dirtyAckEvent_faultPc (s : State) : (dirtyAckEvent s).faultPc = s.faultPc := rfl
@[simp] theorem dirtyAckEvent_faultOp (s : State) : (dirtyAckEvent s).faultOp = s.faultOp := rfl
@[simp] theorem dirtyAckEvent_mem (s : State) : (dirtyAckEvent s).mem = s.mem := rfl
@[simp] theorem dirtyAckEvent_keys (s : State) : (dirtyAckEvent s).keys = s.keys := rfl
@[simp] theorem dirtyAckEvent_draws (s : State) : (dirtyAckEvent s).draws = s.draws := rfl
@[simp] theorem dirtyAckEvent_schedule (s : State) : (dirtyAckEvent s).schedule = s.schedule := rfl
@[simp] theorem dirtyAckEvent_later (s : State) : (dirtyAckEvent s).later = s.later := rfl
@[simp] theorem dirtyAckEvent_loadResult (s : State) : (dirtyAckEvent s).loadResult = s.loadResult := rfl

/-! ### resetEvent -/

@[simp] theorem resetEvent_mem (s : State) : (resetEvent s).mem = s.mem := rfl
@[simp] theorem resetEvent_keys (s : State) : (resetEvent s).keys = s.keys := rfl
@[simp] theorem resetEvent_draws (s : State) : (resetEvent s).draws = s.draws := rfl
@[simp] theorem resetEvent_schedule (s : State) : (resetEvent s).schedule = s.schedule := rfl
@[simp] theorem resetEvent_later (s : State) : (resetEvent s).later = s.later := rfl
@[simp] theorem resetEvent_loadResult (s : State) : (resetEvent s).loadResult = s.loadResult := rfl

/-- Every other field of the block is as at construction (R210: the two columns of R40 agree). -/
theorem resetEvent_eq (s : State) :
    resetEvent s =
      { State.reset with
        mem := s.mem, keys := s.keys, draws := s.draws, schedule := s.schedule,
        later := s.later, loadResult := s.loadResult } := rfl

/-! ### skipIf -/

@[simp] theorem skipIf_v (s : State) (c : Bool) : (s.skipIf c).v = s.v := by cases c <;> rfl
@[simp] theorem skipIf_i (s : State) (c : Bool) : (s.skipIf c).i = s.i := by cases c <;> rfl
@[simp] theorem skipIf_pc (s : State) (c : Bool) :
    (s.skipIf c).pc = if c then s.pc + 2 else s.pc := by
  cases c <;> rfl
@[simp] theorem skipIf_sp (s : State) (c : Bool) : (s.skipIf c).sp = s.sp := by cases c <;> rfl
@[simp] theorem skipIf_stack (s : State) (c : Bool) : (s.skipIf c).stack = s.stack := by cases c <;> rfl
@[simp] theorem skipIf_dt (s : State) (c : Bool) : (s.skipIf c).dt = s.dt := by cases c <;> rfl
@[simp] theorem skipIf_st (s : State) (c : Bool) : (s.skipIf c).st = s.st := by cases c <;> rfl
@[simp] theorem skipIf_fb (s : State) (c : Bool) : (s.skipIf c).fb = s.fb := by cases c <;> rfl
@[simp] theorem skipIf_dirty (s : State) (c : Bool) : (s.skipIf c).dirty = s.dirty := by cases c <;> rfl
@[simp] theorem skipIf_runState (s : State) (c : Bool) : (s.skipIf c).runState = s.runState := by cases c <;> rfl
@[simp] theorem skipIf_faultCode (s : State) (c : Bool) : (s.skipIf c).faultCode = s.faultCode := by cases c <;> rfl
@[simp] theorem skipIf_faultPc (s : State) (c : Bool) : (s.skipIf c).faultPc = s.faultPc := by cases c <;> rfl
@[simp] theorem skipIf_faultOp (s : State) (c : Bool) : (s.skipIf c).faultOp = s.faultOp := by cases c <;> rfl
@[simp] theorem skipIf_mem (s : State) (c : Bool) : (s.skipIf c).mem = s.mem := by cases c <;> rfl
@[simp] theorem skipIf_keys (s : State) (c : Bool) : (s.skipIf c).keys = s.keys := by cases c <;> rfl
@[simp] theorem skipIf_draws (s : State) (c : Bool) : (s.skipIf c).draws = s.draws := by cases c <;> rfl
@[simp] theorem skipIf_schedule (s : State) (c : Bool) : (s.skipIf c).schedule = s.schedule := by cases c <;> rfl
@[simp] theorem skipIf_later (s : State) (c : Bool) : (s.skipIf c).later = s.later := by cases c <;> rfl
@[simp] theorem skipIf_loadResult (s : State) (c : Bool) : (s.skipIf c).loadResult = s.loadResult := by cases c <;> rfl

/-! ### What a register reads as after a write -/

theorem setV_read (s : State) (x r : Reg) (b : Byte) :
    (s.setV x b).v[r] = if r = x then b else s.v[r] := by
  by_cases h : r = x
  · subst h
    simp
  · have h' : x.val ≠ r.val := fun e => h (Fin.ext e.symm)
    simp [h, h']

theorem setFlag_read (s : State) (f : Bool) (r : Reg) :
    (s.setFlag f).v[r] = if r = 15 then (if f then 0x01 else 0x00) else s.v[r] :=
  setV_read s 15 r _

/-- A flag writer's registers: the flag in VF whatever x is, the result in V[x] for x ≠ 0xF, the rest kept (R21). -/
theorem setV_setFlag_read (s : State) (x r : Reg) (b : Byte) (f : Bool) :
    ((s.setV x b).setFlag f).v[r] =
      if r = 15 then (if f then 0x01 else 0x00) else if r = x then b else s.v[r] := by
  rw [setFlag_read, setV_read]

theorem loadRegs_read (s : State) (x r : Reg) (a : Nat) :
    (s.loadRegs x a).v[r] = if r ≤ x then s.mem.read (a + r.val) else s.v[r] := by
  simp

/-- The entries after a push that does not overflow: the next one holds the value, the others are kept (R94). -/
theorem push_read (s : State) (w : Word) (h : s.sp ≠ 15) (j : Fin 16) :
    (s.push w).stack[j] = if j.val = s.sp.toNat + 1 then w else s.stack[j] := by
  have hsp : s.sp.toNat ≠ 15 := fun e => h (BitVec.eq_of_toNat_eq e)
  have hlt := s.sp.isLt
  have hnext : (s.sp + 1).toNat = s.sp.toNat + 1 := by
    rw [BitVec.toNat_add]
    show (s.sp.toNat + 1) % 16 = s.sp.toNat + 1
    omega
  show (s.stack.set (s.sp + 1).toNat w)[j.val] = _
  rw [Vector.getElem_set]
  simp only [hnext, eq_comm (a := j.val)]
  rfl

theorem push_top (s : State) (w : Word) : (s.push w).stackTop = w := by
  simp [State.stackTop]

end Sys2Proof.Machine
end

