-- ==== Sys2Proof/Laws/Step.lean ====
section
/-! SUPPORT. Which event a step runs, what a STEP does once its three cases are told apart, how a schedule
goes on, and how runs unfold. -/

namespace Sys2Proof.Machine

/-- The event that comes next is the one that is run. -/
theorem step_event {s : State} {e : Event} (h : nextEvent s = some e) : step s = runEvent e (dueState s) := by
  rw [step, h]

/-- When STEP comes next, the engine steps. -/
theorem step_engine {s : State} (h : nextEvent s = some .step) : step s = engineStep (dueState s) := step_event h

/-- When the schedule has ended, nothing happens. -/
theorem step_ended {s : State} (h : nextEvent s = none) : step s = .next s := by
  rw [step, h]

/-! ### The schedule -/

/-- Which event comes next depends on the schedule alone. -/
theorem nextEvent_congr {s t : State} (h : t.schedule = s.schedule) (h' : t.later = s.later) : nextEvent t = nextEvent s := by
  rw [nextEvent, nextEvent, h, h']

/-- Which events come depends on the schedule alone. -/
theorem scheduledAt_congr (k : Nat) {s t : State} (h : t.schedule = s.schedule) (h' : t.later = s.later) :
    scheduledAt k t = scheduledAt k s := by
  induction k generalizing s t with
  | zero => exact nextEvent_congr h h'
  | succ k ih => exact ih (by simp only [dueState, h, h']) (by simp only [dueState, h, h'])

/-- Only a list that is empty and that nothing follows has no next event. -/
theorem takeEvent_none (es : List Event) (later : Later) : (takeEvent es later).1 = none ↔ es = [] ∧ later = .ended := by
  cases es <;> cases later <;> simp [takeEvent]

/-- A schedule that has ended stays as it is. -/
theorem dueState_ended {s : State} (h : nextEvent s = none) : dueState s = s := by
  obtain ⟨h1, h2⟩ := (takeEvent_none _ _).mp h
  cases s
  simp_all [dueState, takeEvent]

/-- The events of the list come first, in its order. -/
theorem scheduledAt_listed {k : Nat} {e : Event} {s : State} (h : s.schedule[k]? = some e) : scheduledAt k s = some e := by
  induction k generalizing s with
  | zero =>
    cases hs : s.schedule with
    | nil => simp [hs] at h
    | cons a es => simpa [scheduledAt, nextEvent, takeEvent, hs] using h
  | succ k ih =>
    cases hs : s.schedule with
    | nil => simp [hs] at h
    | cons a es => exact ih (by simpa [dueState, takeEvent, hs] using h)

/-- After them come those that Later gives. -/
theorem scheduledAt_after {s : State} (k : Nat) :
    scheduledAt (s.schedule.length + k) s = scheduledAt k { s with schedule := [] } := by
  obtain ⟨es, hes⟩ : ∃ es, s.schedule = es := ⟨_, rfl⟩
  rw [hes]
  induction es generalizing s with
  | nil =>
    rw [List.length_nil, Nat.zero_add]
    exact scheduledAt_congr k hes rfl
  | cons e es ih =>
    have hd : (dueState s).schedule = es ∧ (dueState s).later = s.later := by simp [dueState, hes, takeEvent]
    rw [List.length_cons, show es.length + 1 + k = es.length + k + 1 by omega, scheduledAt, ih hd.1]
    exact scheduledAt_congr k rfl hd.2

/-- A running engine that can fetch runs the word it fetches. -/
theorem engineStep_fetched {s : State} (h : s.runState ≠ .faulted) (hpc : s.pc.toNat + 1 ≤ 0xFFF) :
    engineStep s = exec (decodeWord (fetchWord s)) s := by
  have hf : fetchOutOfRange s = false := by
    simp only [fetchOutOfRange, decide_eq_false_iff_not]
    omega
  rw [engineStep, if_neg h, hf, if_neg Bool.false_ne_true]

/-- A running engine that cannot fetch records FETCH_ADDRESS. -/
theorem engineStep_unfetched {s : State} (h : s.runState ≠ .faulted) (hpc : s.pc.toNat + 1 > 0xFFF) :
    engineStep s = .next (takeFault .fetchAddress 0x0000#16 s) := by
  have hf : fetchOutOfRange s = true := by
    simp only [fetchOutOfRange, decide_eq_true_eq]
    omega
  rw [engineStep, if_neg h, hf, if_pos rfl]

/-- A faulted engine does nothing. -/
theorem engineStep_faulted {s : State} (h : s.runState = .faulted) : engineStep s = .next s := if_pos h

/-- The word of two bytes written at PC is the word fetched there. -/
theorem fetchWord_written {s : State} {m : Memory} {w : Word} (h : s.mem = m.writeBytes s.pc.toNat (bytesOfWord w)) :
    fetchWord s = w := by
  rw [fetchWord]
  conv_rhs => rw [← wordOfBytes_bytesOfWord w]
  simp only [h, Memory.read_writeBytes, bytesOfWord]
  congr 1 <;> simp

/-- With nothing but STEP for ever scheduled, taking the next event changes nothing. -/
theorem dueState_steps {s : State} (h : s.schedule = []) (h' : s.later = .repeats .step []) : dueState s = s := by
  cases s
  simp_all [dueState, takeEvent]

/-- One more step at the front of a run. -/
theorem run_succ {n : Nat} {s t : State} (h : step s = .next t) :
    Host.Core.run core (n + 1) s = Host.Core.run core n t := by
  have h' : core.step s = .next t := h
  simp only [Host.Core.run]
  rw [h']

/-- The range check passes exactly where no byte lies beyond 0xFFF. -/
theorem rangeOk_iff_not_beyond (a n : Nat) : rangeOk a n = true ↔ ¬BeyondMemory a n := by
  rw [rangeOk_iff, BeyondMemory]
  omega

end Sys2Proof.Machine
end

