-- ==== Sys2Proof/Tests/Slice0.lean ====
section
/-! SUPPORT. Checks of the model on fixed values. Expected results come from the spec: words from the patterns of R72 and R76,
and states from the vectors T<n> and S<n> of spec/95_test_vectors.md. The witnesses at the end meet the hypotheses of the
obligations, clause by clause, at the ends of their ranges. -/

namespace Sys2Proof.Tests

open Sys2Proof Sys2Proof.Machine

/-! ### WellFormed refuses -/

theorem test_wellFormed_sys_not_cls : (Instr.sysNnn 0x0E0).wellFormed = false := by decide
theorem test_wellFormed_sys_not_ret : (Instr.sysNnn 0x0EE).wellFormed = false := by decide
theorem test_wellFormed_noop_not_se : (Instr.noop 0x5120).wellFormed = false := by decide
theorem test_wellFormed_noop_not_alu : (Instr.noop 0x812E).wellFormed = false := by decide
theorem test_wellFormed_noop_not_sne : (Instr.noop 0x9120).wellFormed = false := by decide
theorem test_wellFormed_noop_not_key : (Instr.noop 0xE59E).wellFormed = false := by decide
theorem test_wellFormed_noop_not_misc : (Instr.noop 0xF265).wellFormed = false := by decide
theorem test_wellFormed_noop_not_whole_family : (Instr.noop 0x6A42).wellFormed = false := by decide

/-! ### One word of every constructor, written out from its pattern -/

theorem test_decode_cls : decodeWord 0b0000000011100000 = .cls := by decide
theorem test_decode_ret : decodeWord 0b0000000011101110 = .ret := by decide
theorem test_decode_sys : decodeWord 0b0000000100100011 = .sysNnn 0x123 := by decide
theorem test_decode_jp : decodeWord 0b0001101010111100 = .jpNnn 0xABC := by decide
theorem test_decode_call : decodeWord 0b0010001000010000 = .callNnn 0x210 := by decide
theorem test_decode_seVxKk : decodeWord 0b0011001100010000 = .seVxKk 3 0x10 := by decide
theorem test_decode_sneVxKk : decodeWord 0b0100001100010001 = .sneVxKk 3 0x11 := by decide
theorem test_decode_seVxVy : decodeWord 0b0101000100100000 = .seVxVy 1 2 := by decide
theorem test_decode_ldVxKk : decodeWord 0b0110101001000010 = .ldVxKk 0xA 0x42 := by decide
theorem test_decode_addVxKk : decodeWord 0b0111001000100000 = .addVxKk 2 0x20 := by decide
theorem test_decode_ldVxVy : decodeWord 0b1000000100100000 = .ldVxVy 1 2 := by decide
theorem test_decode_or : decodeWord 0b1000000100100001 = .orVxVy 1 2 := by decide
theorem test_decode_and : decodeWord 0b1000000100100010 = .andVxVy 1 2 := by decide
theorem test_decode_xor : decodeWord 0b1000000100100011 = .xorVxVy 1 2 := by decide
theorem test_decode_addVxVy : decodeWord 0b1000111100010100 = .addVxVy 0xF 1 := by decide
theorem test_decode_sub : decodeWord 0b1000000100100101 = .subVxVy 1 2 := by decide
theorem test_decode_shr : decodeWord 0b1000000100100110 = .shrVx 1 2 := by decide
theorem test_decode_subn : decodeWord 0b1000000100100111 = .subnVxVy 1 2 := by decide
theorem test_decode_shl : decodeWord 0b1000000100101110 = .shlVx 1 2 := by decide
theorem test_decode_sneVxVy : decodeWord 0b1001000100100000 = .sneVxVy 1 2 := by decide
theorem test_decode_ldI : decodeWord 0b1010000100100011 = .ldINnn 0x123 := by decide
theorem test_decode_jpV0 : decodeWord 0b1011010100000000 = .jpV0Nnn 0x500 := by decide
theorem test_decode_rnd : decodeWord 0b1100001000001111 = .rndVxKk 2 0x0F := by decide
theorem test_decode_drw : decodeWord 0b1101000100100101 = .drwVxVyN 1 2 5 := by decide
theorem test_decode_skp : decodeWord 0b1110010110011110 = .skpVx 5 := by decide
theorem test_decode_sknp : decodeWord 0b1110010110100001 = .sknpVx 5 := by decide
theorem test_decode_ldVxDt : decodeWord 0b1111001100000111 = .ldVxDt 3 := by decide
theorem test_decode_ldVxK : decodeWord 0b1111001000001010 = .ldVxK 2 := by decide
theorem test_decode_ldDtVx : decodeWord 0b1111000100010101 = .ldDtVx 1 := by decide
theorem test_decode_ldStVx : decodeWord 0b1111000100011000 = .ldStVx 1 := by decide
theorem test_decode_addI : decodeWord 0b1111000100011110 = .addIVx 1 := by decide
theorem test_decode_ldF : decodeWord 0b1111101000101001 = .ldFVx 0xA := by decide
theorem test_decode_ldB : decodeWord 0b1111000100110011 = .ldBVx 1 := by decide
theorem test_decode_ldMem : decodeWord 0b1111001001010101 = .ldMemVx 2 := by decide
theorem test_decode_ldVxMem : decodeWord 0b1111001001100101 = .ldVxMem 2 := by decide
theorem test_decode_noop : decodeWord 0b1111000011111111 = .noop 0xF0FF := by decide
theorem test_decode_bytes_big_endian : decode [0x6A, 0x42, 0x00] = .ok (.ldVxKk 0xA 0x42, [0x00]) := by rfl
theorem test_decode_truncated : decode [0x6A] = .error .truncated := by rfl
theorem test_decodeTableWord : decodeTableWord 16 0x2210 = some (.callNnn 0x210) := by decide

/-! ### One step of each instruction -/

/-- The construction state at PC, with some registers set. -/
def testState (pc : Word) (regs : List (Reg × Byte)) : State :=
  regs.foldl (fun s r => s.setV r.1 r.2) { State.reset with pc := pc }

/-- The step that runs the word w where s fetches ends in a next state of which p holds. -/
def testStep (s : State) (w : Nat) (p : State → Bool) : Bool :=
  match step (s.withFetchWord 16 w) with
  | .next t => p t
  | .fault _ => false
  | .refused _ => false

/-- The vectors' F(code). -/
def testFaulted (c : FaultCode) (a w : Word) (t : State) : Bool :=
  t.runState == .faulted && t.faultCode == c && t.faultPc == a && t.faultOp == w && t.pc == a

theorem test_T1_cls :
    testStep { testState 0x200 [] with fb := FrameBuffer.blank.set 4 (FrameBuffer.blank[4].set 3 true), dirty := false } 0x00E0
      (fun t => !t.fb[4][3] && t.dirty && t.pc == 0x202) = true := by decide
theorem test_T3_ret :
    testStep { testState 0x210 [] with sp := 1, stack := State.reset.stack.set 1 0x206 } 0x00EE
      (fun t => t.pc == 0x206 && t.sp == 0 && t.stack[1] == 0x206) = true := by decide
theorem test_T4_ret_underflow :
    testStep (testState 0x200 []) 0x00EE (fun t => testFaulted .stackUnderflow 0x200 0x00EE t && t.sp == 0) = true := by decide
theorem test_T5_sys : testStep (testState 0x200 []) 0x0123 (fun t => t.pc == 0x202) = true := by decide
theorem test_T7_jp : testStep (testState 0x200 []) 0x1ABC (fun t => t.pc == 0xABC) = true := by decide
theorem test_T11_call :
    testStep { testState 0x300 [] with sp := 14 } 0x2400
      (fun t => t.sp == 15 && t.stack[15] == 0x302 && t.pc == 0x400) = true := by decide
theorem test_T12_call_overflow :
    testStep { testState 0x300 [] with sp := 15 } 0x2400
      (fun t => testFaulted .stackOverflow 0x300 0x2400 t && t.sp == 15) = true := by decide
theorem test_T13_se : testStep (testState 0x200 [(3, 0x10)]) 0x3310 (fun t => t.pc == 0x204) = true := by decide
theorem test_T14_se : testStep (testState 0x200 [(3, 0x10)]) 0x3311 (fun t => t.pc == 0x202) = true := by decide
theorem test_T16_sne : testStep (testState 0x200 [(3, 0x10)]) 0x4311 (fun t => t.pc == 0x204) = true := by decide
theorem test_T18_se_regs : testStep (testState 0x200 [(1, 7), (2, 7)]) 0x5120 (fun t => t.pc == 0x204) = true := by decide
theorem test_T22_sne_regs : testStep (testState 0x200 [(1, 7), (2, 8)]) 0x9120 (fun t => t.pc == 0x204) = true := by decide
theorem test_T24_noop : testStep (testState 0x200 [(1, 7), (2, 8)]) 0x912F (fun t => t.pc == 0x202) = true := by decide
theorem test_T26_jpV0 : testStep (testState 0x200 [(0, 0xFF)]) 0xBFFF (fun t => t.pc == 0x10FE) = true := by decide
theorem test_T27_jpV0 : testStep (testState 0x200 [(0, 1), (5, 0x33)]) 0xB500 (fun t => t.pc == 0x501) = true := by decide
theorem test_T30_ld : testStep (testState 0x200 []) 0x6A42 (fun t => t.v[10] == 0x42 && t.pc == 0x202) = true := by decide
theorem test_T32_addKk :
    testStep (testState 0x200 [(0, 0xFF), (15, 0xAA)]) 0x7002 (fun t => t.v[0] == 0x01 && t.v[15] == 0xAA) = true := by decide
theorem test_T33_addKk_vf : testStep (testState 0x200 [(15, 0xFF)]) 0x7F01 (fun t => t.v[15] == 0x00) = true := by decide
theorem test_T40_copy :
    testStep (testState 0x200 [(0, 0x12), (1, 0x09), (15, 0xAA)]) 0x8010 (fun t => t.v[0] == 0x09 && t.v[15] == 0xAA) = true := by
  decide
theorem test_T41_or :
    testStep (testState 0x200 [(0, 0x0C), (1, 0x0A), (15, 0xAA)]) 0x8011 (fun t => t.v[0] == 0x0E && t.v[15] == 0xAA) = true := by
  decide
theorem test_T42_and :
    testStep (testState 0x200 [(0, 0x0C), (1, 0x0A), (15, 0xAA)]) 0x8012 (fun t => t.v[0] == 0x08 && t.v[15] == 0xAA) = true := by
  decide
theorem test_T43_xor :
    testStep (testState 0x200 [(0, 0x0C), (1, 0x0A), (15, 0xAA)]) 0x8013 (fun t => t.v[0] == 0x06 && t.v[15] == 0xAA) = true := by
  decide
theorem test_T70_add_vf : testStep (testState 0x200 [(15, 0xFF), (1, 0x01)]) 0x8F14 (fun t => t.v[15] == 0x01) = true := by decide
theorem test_T71_add_vf :
    testStep (testState 0x200 [(0, 0x01), (15, 0xFF)]) 0x80F4 (fun t => t.v[15] == 0x01 && t.v[0] == 0x00) = true := by decide
theorem test_T52_sub :
    testStep (testState 0x200 [(0, 0x03), (1, 0x08)]) 0x8015 (fun t => t.v[0] == 0xFB && t.v[15] == 0x00) = true := by decide
theorem test_T53_sub_equal :
    testStep (testState 0x200 [(0, 0x05), (1, 0x05)]) 0x8015 (fun t => t.v[0] == 0x00 && t.v[15] == 0x00) = true := by decide
theorem test_T56_shr :
    testStep (testState 0x200 [(0, 0x05), (1, 0xEE)]) 0x8016 (fun t => t.v[0] == 0x02 && t.v[15] == 0x01) = true := by decide
theorem test_T74_shr_vf : testStep (testState 0x200 [(15, 0x03)]) 0x8F06 (fun t => t.v[15] == 0x01) = true := by decide
theorem test_T60_subn :
    testStep (testState 0x200 [(0, 0x03), (1, 0x08)]) 0x8017 (fun t => t.v[0] == 0x05 && t.v[15] == 0x01) = true := by decide
theorem test_T64_shl :
    testStep (testState 0x200 [(0, 0x81)]) 0x800E (fun t => t.v[0] == 0x02 && t.v[15] == 0x01) = true := by decide
theorem test_T80_ldI : testStep (testState 0x200 []) 0xA123 (fun t => t.i == 0x123) = true := by decide

/-- T82: whatever the draw, mask 0 gives 0. The draw is a free value, so this is a proof and not an evaluation. -/
theorem test_T82_rnd : ∃ t, exec (.rndVxKk 0 0x00) (testState 0x200 []) = .next t ∧ t.v[(0 : Reg)] = 0x00 ∧ t.draws = 1 :=
  ⟨_, rfl, (setV_read _ 0 0 _).trans (by simp), rfl⟩

theorem test_T86_drw_wraps :
    testStep { testState 0x200 [(0, 0x3E)] with i := 0x300, mem := [(0x300, 0xFF)] } 0xD011
      (fun t => t.fb[0][62] && t.fb[0][63] && t.fb[0][0] && t.fb[0][5] && !t.fb[0][6] && t.v[15] == 0) = true := by decide
theorem test_T91_drw_fault :
    testStep { testState 0x200 [] with i := 0xFFF } 0xD012
      (fun t => testFaulted .dataAddress 0x200 0xD012 t && !t.fb[0][0]) = true := by decide
theorem test_T100_skp :
    testStep { testState 0x200 [(5, 0xA)] with keys := 0x0400 } 0xE59E (fun t => t.pc == 0x204) = true := by decide
theorem test_T104_skp_fault :
    testStep (testState 0x200 [(5, 0x10)]) 0xE59E (testFaulted .keyIndex 0x200 0xE59E) = true := by decide
theorem test_T102_sknp : testStep (testState 0x200 [(5, 0xA)]) 0xE5A1 (fun t => t.pc == 0x204) = true := by decide
theorem test_T105_sknp_fault :
    testStep (testState 0x200 [(5, 0xFF)]) 0xE5A1 (testFaulted .keyIndex 0x200 0xE5A1) = true := by decide
theorem test_T107_ldDt :
    testStep { testState 0x200 [] with dt := 0x3C } 0xF307 (fun t => t.v[3] == 0x3C) = true := by decide
theorem test_T108_wait :
    testStep (testState 0x300 []) 0xF20A (fun t => t.pc == 0x300 && t.runState == .waiting) = true := by decide
theorem test_T109_key :
    testStep { testState 0x300 [] with keys := 0x0088 } 0xF20A
      (fun t => t.v[2] == 7 && t.pc == 0x302 && t.runState == .running) = true := by decide
theorem test_T112_setDt : testStep (testState 0x200 [(1, 0x3C)]) 0xF115 (fun t => t.dt == 0x3C) = true := by decide
theorem test_T113_setSt : testStep (testState 0x200 [(1, 0x05)]) 0xF118 (fun t => t.st == 0x05) = true := by decide
theorem test_T114_addI :
    testStep { testState 0x200 [(0, 3), (15, 0xAA)] with i := 0xFFE } 0xF01E
      (fun t => t.i == 0x1001 && t.v[15] == 0xAA) = true := by decide
theorem test_T115_addI :
    testStep { testState 0x200 [(0, 1)] with i := 0xFFFF } 0xF01E (fun t => t.i == 0x0000) = true := by decide
theorem test_T119_ldF : testStep (testState 0x200 [(0, 0xFF)]) 0xF029 (fun t => t.i == 0x4FB) = true := by decide
theorem test_T124_ldB :
    testStep { testState 0x200 [(0, 255)] with i := 0xFFD } 0xF033
      (fun t => t.mem.read 0xFFD == 2 && t.mem.read 0xFFE == 5 && t.mem.read 0xFFF == 5) = true := by decide
theorem test_T125_ldB_fault :
    testStep { testState 0x200 [] with i := 0xFFE } 0xF033 (testFaulted .dataAddress 0x200 0xF033) = true := by decide
theorem test_T126_store :
    testStep { testState 0x200 [(0, 1), (1, 2), (2, 3), (3, 4)] with i := 0x400 } 0xF255
      (fun t => t.mem.read 0x400 == 1 && t.mem.read 0x401 == 2 && t.mem.read 0x402 == 3 && t.mem.read 0x403 == 0 && t.i == 0x400)
      = true := by decide
theorem test_T128_store_fault :
    testStep { testState 0x200 [] with i := 0xFF1 } 0xFF55 (testFaulted .dataAddress 0x200 0xFF55) = true := by decide
theorem test_T129_load :
    testStep { testState 0x200 [(3, 9)] with i := 0x400, mem := [(0x400, 1), (0x401, 2), (0x402, 3)] } 0xF265
      (fun t => t.v[0] == 1 && t.v[1] == 2 && t.v[2] == 3 && t.v[3] == 9 && t.i == 0x400) = true := by decide
theorem test_T131_load_fault :
    testStep { testState 0x200 [] with i := 0xFFF } 0xF165 (testFaulted .dataAddress 0x200 0xF165) = true := by decide

/-! ### The other events -/

/-- The next event ends in a next state of which p holds. -/
def testEvent (s : State) (e : Event) (p : State → Bool) : Bool :=
  match step { s with schedule := [e] } with
  | .next t => p t
  | .fault _ => false
  | .refused _ => false

theorem test_T8_fetch_fault :
    testEvent (testState 0xFFF []) .step (testFaulted .fetchAddress 0xFFF 0x0000) = true := by decide
theorem test_T141_tick :
    testEvent { testState 0x200 [] with st := 5 } .tick (fun t => t.dt == 0 && t.st == 4) = true := by decide
theorem test_T143_tick_faulted :
    testEvent { testState 0x200 [] with runState := .faulted, dt := 3 } .tick (fun t => t.dt == 2) = true := by decide
theorem test_T145_reset :
    testEvent { testState 0x300 [(3, 7)] with mem := [(0x300, 0xFF)], keys := 0x0004, runState := .faulted } .reset
      (fun t => t.pc == 0x200 && t.v[3] == 0 && t.mem == [(0x300, 0xFF)] && t.keys == 0x0004 && t.runState == .running)
      = true := by decide
theorem test_T146_load :
    testEvent (testState 0x200 []) (.load 0xFFE [0x01, 0x02])
      (fun t => t.loadResult == some .ok && t.mem.read 0xFFE == 1 && t.mem.read 0xFFF == 2) = true := by decide
theorem test_T147_load_error :
    testEvent (testState 0x200 []) (.load 0xFFF [0x01, 0x02])
      (fun t => t.loadResult == some .addressError && t.mem == []) = true := by decide
theorem test_ended_schedule_stops :
    step { testState 0x200 [] with later := .ended } = .next { testState 0x200 [] with later := .ended } := rfl
theorem test_endless_ticks :
    scheduledAt 20 { testState 0x200 [] with schedule := [], later := .repeats .step [.tick] } = some .step := by decide
theorem test_T150_dirtyAck : testEvent (testState 0x200 []) .dirtyAck (fun t => !t.dirty) = true := by decide

/-! ### Witnesses: concrete values that meet the hypotheses of each obligation, clause by clause -/

/-- A state of which the invariant holds and that is not the construction state: a cell of memory, PC at its bound, a stack
entry at its bound, and a fault recorded. -/
def witnessState : State :=
  { testState 0x10FE [] with
    mem := [(0x300, 0x01)], stack := State.reset.stack.set 1 0x1000, runState := .faulted, faultCode := .fetchAddress,
    faultPc := 0x10FE }

theorem witness_StepKeepsInvariant : Inv witnessState ∧ ∃ t, step witnessState = .next t := by
  refine ⟨⟨by decide, by decide, by decide, fun h => ?_, fun _ => ⟨rfl, rfl, .inl ⟨rfl, rfl, by decide⟩⟩⟩, _, rfl⟩
  exact absurd h (by decide)

/-- The other half of the invariant's clause on the status block: a recorded fault of an instruction, RET at SP = 0. -/
theorem witness_StepKeepsInvariant_recorded :
    FaultRecordOk { testState 0x200 [] with
      runState := .faulted, faultCode := .stackUnderflow, faultPc := 0x200, faultOp := 0x00EE } := by
  refine ⟨fun h => absurd h (by decide), fun _ => ⟨rfl, rfl, .inr (.inr (.inl ⟨by decide, rfl, rfl⟩))⟩⟩

theorem witness_ConstructionMemory_ends : (0x050 ≤ 0x050 ∧ 0x050 ≤ 0xFFF) ∧ (0x050 ≤ 0xFFF ∧ 0xFFF ≤ 0xFFF) := by decide

/-- ConstructionMemory: a listed event, and each way a schedule goes on. -/
theorem witness_ConstructionMemory_schedule :
    scheduledAt 0 (State.construct Config.defaultFont (fun _ => 0xFF) 0x0001 [.tick] .ended) = some .tick ∧
      scheduledAt 1 (State.construct Config.defaultFont (fun _ => 0xFF) 0x0001 [.tick] .ended) = none ∧
      scheduledAt 3 (State.construct Config.defaultFont (fun _ => 0xFF) 0x0001 [.tick] (.repeats .step [.tick])) = some .step ∧
      scheduledAt 1 (State.construct Config.defaultFont (fun _ => 0xFF) 0x0001 [.tick] (.free 7)) = some (Config.scheduled 7) :=
  ⟨rfl, rfl, rfl, rfl⟩

theorem witness_CanonicalMemoryIsItsReads :
    ∃ m m' : Memory, m.wf ∧ m'.wf ∧ (∀ a, m.read a = m'.read a) ∧ m ≠ [] :=
  ⟨[(0x300, 0x01)], Memory.write (Memory.write [] 0x300 0x02) 0x300 0x01, by decide, by decide, fun _ => rfl, by decide⟩

theorem witness_DecodeOfEncode :
    (Instr.sysNnn 0x0EF).wellFormed = true ∧ (Instr.noop 0x500F).wellFormed = true ∧ (Instr.noop 0x8128).wellFormed = true ∧
      (Instr.noop 0x9001).wellFormed = true ∧ (Instr.noop 0xE59F).wellFormed = true ∧ (Instr.noop 0xFFFF).wellFormed = true ∧
      (Instr.drwVxVyN 15 15 15).wellFormed = true := by decide

theorem witness_DecodeAgreesWithTable :
    (⟨0xFFFF, 0x00E0, "CLS"⟩ : TableRow) ∈ tableRows ∧ (⟨0xFFFF, 0x00E0, "CLS"⟩ : TableRow).matchesWord 0x00E0 = true := by
  decide

theorem witness_StepRunsDecodedInstruction :
    nextEvent (testState 0xFFE []) = some .step ∧ (testState 0xFFE []).runState ≠ .faulted ∧
      (testState 0xFFE []).pc.toNat + 1 ≤ 0xFFF ∧
      decode [(testState 0xFFE []).mem.read 0xFFE, (testState 0xFFE []).mem.read 0xFFF] = .ok (.sysNnn 0x000, []) :=
  ⟨by decide, by decide, by decide, rfl⟩

theorem witness_FetchBeyondMemoryFaults :
    nextEvent (testState 0xFFF []) = some .step ∧ (testState 0xFFF []).runState ≠ .faulted ∧
      (testState 0xFFF []).pc.toNat + 1 > 0xFFF := by decide

theorem witness_FaultedStepChangesNothing :
    nextEvent witnessState = some .step ∧ witnessState.runState = .faulted := by decide

/-- DelayTimer, SoundTimer and TickChangesOnlyTimers: a tick due, the timers at both ends. -/
theorem witness_tick :
    nextEvent { testState 0x200 [] with schedule := [.tick], dt := 0, st := 255 } = some .tick ∧
      nextEvent { testState 0x200 [] with later := .repeats .tick [.step] } = some .tick := by decide

theorem witness_TickCommutesWithInstructions :
    ∀ x, (Instr.ldBVx 0) ≠ .ldVxDt x ∧ (Instr.ldBVx 0) ≠ .ldDtVx x ∧ (Instr.ldBVx 0) ≠ .ldStVx x := by decide

/-- ResetLeavesMemoryAndKeys and ResetWrites. -/
theorem witness_reset : nextEvent { witnessState with schedule := [.reset] } = some .reset := by decide

/-- LoadWritesAllOrNothing: one byte too many, and two loads that end exactly at 0x1000, one of them empty. -/
theorem witness_LoadWritesAllOrNothing :
    nextEvent { testState 0x200 [] with schedule := [.load 0xFFF [1, 2]] } = some (.load 0xFFF [1, 2]) ∧
      (0xFFF#16).toNat + [1, 2].length > 4096 ∧ (0xFFE#16).toNat + [1, 2].length ≤ 4096 ∧
      (0x1000#16).toNat + ([] : List Byte).length ≤ 4096 ∧ (0x1001#16).toNat + ([] : List Byte).length > 4096 := by decide

theorem witness_LoadedWordIsFetched :
    nextEvent { testState 0xFFE [] with schedule := [.load 0xFFE (bytesOfWord 0x00E0)] } =
        some (.load (testState 0xFFE []).pc (bytesOfWord 0x00E0)) ∧
      scheduledAt 1 { testState 0xFFE [] with schedule := [.load 0xFFE (bytesOfWord 0x00E0)] } = some .step ∧
      (testState 0xFFE []).runState ≠ .faulted ∧ (testState 0xFFE []).pc.toNat + 1 ≤ 0xFFF := by decide

theorem witness_KeysFrameAndDirtyEvents :
    nextEvent { testState 0x200 [] with schedule := [.setKeys 0xFFFF] } = some (.setKeys 0xFFFF) ∧
      nextEvent { testState 0x200 [] with schedule := [.readFrame] } = some .readFrame ∧
      nextEvent { testState 0x200 [] with schedule := [.dirtyAck] } = some .dirtyAck := by decide

/-- StatusPortCodes: every RUNSTATE and every FAULT_CODE is some state's. -/
theorem witness_StatusPortCodes (r : RunState) (c : FaultCode) : ∃ s : State, s.runState = r ∧ s.faultCode = c :=
  ⟨{ State.reset with runState := r, faultCode := c }, rfl, rfl⟩

/-- FaultEntryIsPrecise: every condition, at the first value that meets it. -/
theorem witness_FaultEntryIsPrecise :
    FaultsWith (.callNnn 0x400) { testState 0x300 [] with sp := 15 } .stackOverflow ∧
      FaultsWith .ret (testState 0x200 []) .stackUnderflow ∧
      FaultsWith (.drwVxVyN 0 1 2) { testState 0x200 [] with i := 0xFFF } .dataAddress ∧
      FaultsWith (.drwVxVyN 0 1 1) { testState 0x200 [] with i := 0x1000 } .dataAddress ∧
      FaultsWith (.ldBVx 0) { testState 0x200 [] with i := 0xFFE } .dataAddress ∧
      FaultsWith (.ldMemVx 15) { testState 0x200 [] with i := 0xFF1 } .dataAddress ∧
      FaultsWith (.ldVxMem 1) { testState 0x200 [] with i := 0xFFF } .dataAddress ∧
      FaultsWith (.skpVx 5) (testState 0x200 [(5, 0x10)]) .keyIndex ∧
      FaultsWith (.sknpVx 5) (testState 0x200 [(5, 0xFF)]) .keyIndex :=
  ⟨.inl ⟨_, rfl, rfl, rfl⟩, .inr (.inl ⟨rfl, rfl, rfl⟩),
    .inr (.inr (.inl ⟨_, _, _, rfl, ⟨by decide, by decide⟩, rfl⟩)), .inr (.inr (.inl ⟨_, _, _, rfl, ⟨by decide, by decide⟩, rfl⟩)),
    .inr (.inr (.inr (.inl ⟨_, rfl, ⟨by decide, by decide⟩, rfl⟩))),
    .inr (.inr (.inr (.inr (.inl ⟨_, .inl rfl, ⟨by decide, by decide⟩, rfl⟩)))),
    .inr (.inr (.inr (.inr (.inl ⟨_, .inr rfl, ⟨by decide, by decide⟩, rfl⟩)))),
    .inr (.inr (.inr (.inr (.inr ⟨_, .inl rfl, by decide, rfl⟩)))),
    .inr (.inr (.inr (.inr (.inr ⟨_, .inr rfl, by decide, rfl⟩))))⟩

/-- NothingElseFaults: no condition holds, each instruction that has one at the last value that misses it. -/
theorem witness_NothingElseFaults :
    (∀ c, ¬FaultsWith (.callNnn 0x400) { testState 0x300 [] with sp := 14 } c) ∧
      (∀ c, ¬FaultsWith .ret { testState 0x200 [] with sp := 1 } c) ∧
      (∀ c, ¬FaultsWith (.drwVxVyN 0 1 15) { testState 0x200 [] with i := 0xFF1 } c) ∧
      (∀ c, ¬FaultsWith (.drwVxVyN 0 1 0) { testState 0x200 [] with i := 0xFFFF } c) ∧
      (∀ c, ¬FaultsWith (.ldBVx 0) { testState 0x200 [] with i := 0xFFD } c) ∧
      (∀ c, ¬FaultsWith (.ldMemVx 15) { testState 0x200 [] with i := 0xFF0 } c) ∧
      (∀ c, ¬FaultsWith (.ldVxMem 0) { testState 0x200 [] with i := 0xFFF } c) ∧
      (∀ c, ¬FaultsWith (.skpVx 5) (testState 0x200 [(5, 0x0F)]) c) ∧
      (∀ c, ¬FaultsWith .cls (testState 0x200 []) c) := by
  refine ⟨?_, ?_, ?_, ?_, ?_, ?_, ?_, ?_, ?_⟩ <;> intro c h <;> simp [FaultsWith, BeyondMemory, testState] at h

theorem witness_FaultStaysUntilReset :
    witnessState.runState = .faulted ∧
      ∀ k : Nat, k < 4 →
        scheduledAt k { witnessState with schedule := [.tick, .step, .setKeys 0x0001, .load 0x300 [0xFF]] } ≠ some .reset := by
  decide

/-- NoopSpace: each of the five forms. -/
theorem witness_NoopSpace :
    (opOf 0x512F = 5 ∧ nOf 0x512F ≠ 0) ∧ (opOf 0x8018 = 8 ∧ nOf 0x8018 ∈ [8, 9, 0xA, 0xB, 0xC, 0xD, 0xF]) ∧
      (opOf 0x801F = 8 ∧ nOf 0x801F ∈ [8, 9, 0xA, 0xB, 0xC, 0xD, 0xF]) ∧ (opOf 0x9121 = 9 ∧ nOf 0x9121 ≠ 0) ∧
      (opOf 0xE59F = 0xE ∧ kkOf 0xE59F ∉ [0x9E, 0xA1]) ∧
      (opOf 0xF0FF = 0xF ∧ kkOf 0xF0FF ∉ [0x07, 0x0A, 0x15, 0x18, 0x1E, 0x29, 0x33, 0x55, 0x65]) := by decide

theorem witness_SysIsNoop : (0x0E1#12) ≠ 0x0E0 ∧ (0x0E1#12) ≠ 0x0EE := by decide

theorem witness_RetPops :
    (1 : Fin 16).val = ({ testState 0x210 [] with sp := 1 } : State).sp.toNat ∧
      (15 : Fin 16).val = ({ testState 0x210 [] with sp := 15 } : State).sp.toNat ∧
      ({ testState 0x210 [] with sp := 1 } : State).sp ≠ 0 ∧ ({ testState 0x210 [] with sp := 15 } : State).sp ≠ 0 := by decide

/-- CallPushes: both ends of the range of SP, and the entry it writes there. -/
theorem witness_CallPushes :
    (testState 0x204 []).sp ≠ 15 ∧ (1 : Fin 16).val = (testState 0x204 []).sp.toNat + 1 ∧
      ({ testState 0x300 [] with sp := 14 } : State).sp ≠ 15 ∧
      (15 : Fin 16).val = ({ testState 0x300 [] with sp := 14 } : State).sp.toNat + 1 := by decide

/-- SkipsOnByte and SkipsOnRegisters: taken and not taken, and a low nibble that is not 0. -/
theorem witness_skips :
    (testState 0x200 [(3, 0x10)]).v[(3 : Reg)] = 0x10 ∧ (testState 0x200 [(3, 0x10)]).v[(3 : Reg)] ≠ 0x11 ∧
      (testState 0x200 [(1, 7), (2, 7)]).v[(1 : Reg)] = (testState 0x200 [(1, 7), (2, 7)]).v[(2 : Reg)] ∧
      (testState 0x200 [(1, 7), (2, 8)]).v[(1 : Reg)] ≠ (testState 0x200 [(1, 7), (2, 8)]).v[(2 : Reg)] ∧
      (0x1#4) ≠ 0 ∧ 0x5121#16 = 0x5#4 ++ (BitVec.ofFin (1 : Reg) : Nibble) ++ (BitVec.ofFin (2 : Reg) : Nibble) ++ 0x1#4 ∧
      0x9121#16 = 0x9#4 ++ (BitVec.ofFin (1 : Reg) : Nibble) ++ (BitVec.ofFin (2 : Reg) : Nibble) ++ 0x1#4 := by decide

/-- AddSetsCarry, SubSetsGreater, SubnSetsGreater: the sum and the comparison on both sides of their thresholds. -/
theorem witness_flags :
    (0 : Reg) ≠ 15 ∧ (testState 0x200 [(0, 0xFF), (1, 0x01)]).v[(0 : Reg)].toNat +
        (testState 0x200 [(0, 0xFF), (1, 0x01)]).v[(1 : Reg)].toNat ≥ 256 ∧
      (testState 0x200 [(0, 0x7F), (1, 0x80)]).v[(0 : Reg)].toNat +
        (testState 0x200 [(0, 0x7F), (1, 0x80)]).v[(1 : Reg)].toNat < 256 ∧
      (testState 0x200 [(0, 6), (1, 5)]).v[(0 : Reg)].toNat > (testState 0x200 [(0, 6), (1, 5)]).v[(1 : Reg)].toNat ∧
      (testState 0x200 [(0, 5), (1, 5)]).v[(0 : Reg)].toNat ≤ (testState 0x200 [(0, 5), (1, 5)]).v[(1 : Reg)].toNat := by decide

/-- Two words, 6AF0 and 7A20, at the highest place they both fit. -/
def witnessPair : State := { testState 0xFFC [] with mem := [(0xFFC, 0x6A), (0xFFD, 0xF0), (0xFFE, 0x7A), (0xFFF, 0x20)] }

theorem witness_LoadThenAddImmediate :
    scheduledAt 0 witnessPair = some .step ∧ scheduledAt 1 witnessPair = some .step ∧ witnessPair.runState ≠ .faulted ∧
      witnessPair.pc.toNat + 3 ≤ 0xFFF ∧
      fetchWord witnessPair = 0x6#4 ++ (BitVec.ofFin (10 : Reg) : Nibble) ++ 0xF0#8 ∧
      fetchWord { witnessPair with pc := witnessPair.pc + 2 } = 0x7#4 ++ (BitVec.ofFin (10 : Reg) : Nibble) ++ 0x20#8 := by
  decide

/-- One byte of sprite, 0x80, at 0xFFF, the highest place it fits, and the pixel it lands on set. -/
def witnessSprite : State :=
  { testState 0x200 [] with
    i := 0xFFF, mem := [(0xFFF, 0x80)], fb := FrameBuffer.blank.set 0 (FrameBuffer.blank[0].set 0 true) }

/-- DrwXorsSprite and DrawTwiceRestores: I at the end of memory, and n = 0 with I beyond it. -/
theorem witness_draw :
    ((1#4) = 0 ∨ witnessSprite.i.toNat + (1#4).toNat - 1 ≤ 0xFFF) ∧ ((0#4) = 0 ∨ (0xFFFF#16).toNat + 0 - 1 ≤ 0xFFF) ∧
      (0 : Reg) ≠ 15 ∧ (1 : Reg) ≠ 15 := by decide

theorem witness_draw_covered : SpriteCovers witnessSprite 0 1 1 0 0 := ⟨0, 0, by decide⟩

theorem witness_draw_only_covered {py : Fin 32} {px : Fin 64} (h : SpriteCovers witnessSprite 0 1 1 py px) : py = 0 ∧ px = 0 := by
  obtain ⟨r, col, hr, hcol, hbit, hy, hx⟩ := h
  have hr0 : r = 0 := by simpa using hr
  subst hr0
  have bits : ∀ c : Nat, c < 8 → (witnessSprite.mem.read (witnessSprite.i.toNat + 0)).getLsbD (7 - c) = true → c = 0 := by decide
  have hcol0 : col = 0 := bits col hcol hbit
  subst hcol0
  exact ⟨Fin.ext hy.symm, Fin.ext hx.symm⟩

/-- The clauses of DrawTwiceRestores on VF: every pixel the sprite covers is set; over a blank buffer, one is not; and the one row
of a sprite in empty memory has no set bit. -/
theorem witness_DrawTwiceRestores :
    (∀ py px, SpriteCovers witnessSprite 0 1 1 py px → witnessSprite.fb[py][px] = true) ∧
      (∃ py px, SpriteCovers { witnessSprite with fb := FrameBuffer.blank } 0 1 1 py px ∧
        ({ witnessSprite with fb := FrameBuffer.blank } : State).fb[py][px] = false) ∧
      ∀ r : Nat, r < (1#4).toNat → (testState 0x200 []).mem.read (0xFFF + r) = 0 := by
  refine ⟨fun py px h => ?_, ⟨0, 0, ⟨0, 0, by decide⟩, rfl⟩, by decide⟩
  obtain ⟨rfl, rfl⟩ := witness_draw_only_covered h
  rfl

theorem witness_draw_not_covered : ¬SpriteCovers witnessSprite 0 1 1 31 0 :=
  fun h => absurd (witness_draw_only_covered h).1 (by decide)

/-- The collision clause of DrwXorsSprite, both ways: this draw turns the set pixel off; and over a blank buffer it does not. -/
theorem witness_draw_collision :
    testStep witnessSprite 0xD011 (fun t => !t.fb[0][0] && t.v[15] == 1) = true ∧
      testStep { witnessSprite with fb := FrameBuffer.blank } 0xD011 (fun t => t.fb[0][0] && t.v[15] == 0) = true := by decide

/-- SecondDrawCollidesIffSpriteHasSetBit: its hypotheses are met, here on the state that shows it fails. -/
theorem witness_SecondDrawCollidesIffSpriteHasSetBit :
    ∃ t u, exec (.drwVxVyN 0 1 1) witnessSprite = .next t ∧ exec (.drwVxVyN 0 1 1) t = .next u := ⟨_, _, rfl, rfl⟩

theorem witness_KeySkips : (testState 0x200 [(5, 0x0F)]).v[(5 : Reg)].toNat ≤ 15 := by decide

theorem witness_KeyWaitTakesHighestOrStays :
    ({ testState 0x300 [] with keys := 0x8000 } : State).keys ≠ 0 ∧ (testState 0x300 []).keys = 0 := by decide

/-- F30A at the highest place it fits, no key pressed, a tick and a step in turn without end (S9). -/
def witnessWait : State := { testState 0xFFE [] with mem := [(0xFFE, 0xF3), (0xFFF, 0x0A)], later := .repeats .tick [.step] }

theorem witness_KeyWaitMakesNoProgress :
    witnessWait.runState ≠ .faulted ∧ witnessWait.pc.toNat + 1 ≤ 0xFFF ∧ decodeWord (fetchWord witnessWait) = .ldVxK 3 ∧
      witnessWait.keys = 0 ∧ (∀ k : Nat, k < 6 → scheduledAt k witnessWait = some .step ∨ scheduledAt k witnessWait = some .tick) ∧
      (0x0020#16) ≠ 0 := by decide

/-- LdBStoresDigits, BlockStore and BlockLoad: the last I that is in range. -/
theorem witness_memory_ranges :
    ({ testState 0x200 [] with i := 0xFFD } : State).i.toNat + 2 ≤ 0xFFF ∧
      ({ testState 0x200 [] with i := 0xFF0 } : State).i.toNat + (15 : Reg).val ≤ 0xFFF ∧
      ({ testState 0x200 [] with i := 0xFFF } : State).i.toNat + (0 : Reg).val ≤ 0xFFF := by decide

/-- OnlyNamedInstructionsWrite, VfIsFlagOfSix and PcGoesWhereListed: for every part, an instruction that changes it. -/
theorem witness_written :
    testStep witnessSprite 0x00E0 (fun t => t.fb[0][0] != witnessSprite.fb[0][0]) = true ∧
      testStep (testState 0x200 []) 0x2400 (fun t => t.stack != State.reset.stack && t.sp != 0) = true ∧
      testStep (testState 0x200 [(1, 3)]) 0xF115 (fun t => t.dt != 0) = true ∧
      testStep (testState 0x200 [(1, 3)]) 0xF118 (fun t => t.st != 0) = true ∧
      testStep { testState 0x200 [(0, 1)] with i := 0x300 } 0xF055 (fun t => t.mem.read 0x300 != 0) = true ∧
      testStep (testState 0x200 []) 0xA123 (fun t => t.i != 0) = true ∧
      testStep (testState 0x200 []) 0x6F99 (fun t => t.v[15] != 0) = true := by decide

/-- S5, at the highest places it fits: CALL 0xFFE at 0x200, RET at 0xFFE, SP = 14. -/
def witnessCall : State :=
  { testState 0x200 [] with sp := 14, mem := [(0x200, 0x2F), (0x201, 0xFE), (0xFFF, 0xEE)] }

theorem witness_CallReturnRoundTrip :
    scheduledAt 0 witnessCall = some .step ∧ scheduledAt 1 witnessCall = some .step ∧ witnessCall.runState ≠ .faulted ∧
      witnessCall.pc.toNat + 1 ≤ 0xFFF ∧ witnessCall.sp ≠ 15 ∧
      decodeWord (fetchWord witnessCall) = .callNnn 0xFFE ∧ (0xFFE#12).toNat + 1 ≤ 0xFFF ∧
      decodeWord (wordOfBytes (witnessCall.mem.read (0xFFE#12).toNat) (witnessCall.mem.read ((0xFFE#12).toNat + 1))) = .ret := by
  decide

end Sys2Proof.Tests
end

section
/-! SUPPORT. The timers (spec/10_state.md R29, R30): what writes keep of a frame, how one tick counts, and which instructions
depend on DT or ST. -/

namespace Sys2Proof.Machine

/-! ### Building a frame from the writes of an instruction -/

/-- Handler entry moves PC and RUNSTATE, which no frame speaks of, and nothing else. -/
theorem frame_handlerEntry (parts : List Part) (regs : List Reg) (s : State) : Frame parts regs s (handlerEntry s) := by
  simp [Frame]

theorem Frame.setV {parts : List Part} {regs : List Reg} {s t : State} (h : Frame parts regs s t) {x : Reg}
    (hx : x ∈ regs) (b : Byte) : Frame parts regs s (t.setV x b) := by
  obtain ⟨hv, hrest⟩ := h
  refine ⟨fun r hr => ?_, hrest⟩
  have hne : r ≠ x := fun e => hr (e ▸ hx)
  rw [setV_read, if_neg hne, hv r hr]

theorem Frame.setDt {parts : List Part} {regs : List Reg} {s t : State} (h : Frame parts regs s t)
    (hp : .delayTimer ∈ parts) (b : Byte) : Frame parts regs s { t with dt := b } := by
  obtain ⟨hv, hi, hstack, -, hrest⟩ := h
  exact ⟨hv, hi, hstack, fun hn => absurd hp hn, hrest⟩

theorem Frame.setSt {parts : List Part} {regs : List Reg} {s t : State} (h : Frame parts regs s t)
    (hp : .soundTimer ∈ parts) (b : Byte) : Frame parts regs s { t with st := b } := by
  obtain ⟨hv, hi, hstack, hdt, -, hrest⟩ := h
  exact ⟨hv, hi, hstack, hdt, fun hn => absurd hp hn, hrest⟩

/-! ### A tick -/

/-- Counting down is Nat's own subtraction, which stops at 0 too (R189). -/
theorem toNat_countDown (b : Byte) : (countDown b).toNat = b.toNat - 1 := by
  rw [countDown]
  split_ifs with h
  · rw [h]
    rfl
  · bv_omega

theorem step_tick {s : State} (h : nextEvent s = some .tick) : step s = .next (tickEvent (dueState s)) := step_event h

/-! ### The words of family F that name a timer -/

/-- The second level of decode in family F (R76). -/
theorem decodeWord_encodeFXK_F (x : Reg) (kk : Byte) :
    decodeWord (encodeFXK 0xF#4 x kk) = decodeFamilyF (encodeFXK 0xF#4 x kk) := by
  simp [decodeWord]

theorem decodeWord_ldDtVx (x : Reg) : decodeWord (encode (.ldDtVx x)) = .ldDtVx x := by
  simp [encode, decodeWord_encodeFXK_F, decodeFamilyF]

theorem decodeWord_ldVxDt (x : Reg) : decodeWord (encode (.ldVxDt x)) = .ldVxDt x := by
  simp [encode, decodeWord_encodeFXK_F, decodeFamilyF]

theorem decodeWord_ldStVx (x : Reg) : decodeWord (encode (.ldStVx x)) = .ldStVx x := by
  simp [encode, decodeWord_encodeFXK_F, decodeFamilyF]

/-! ### The three instructions that name a timer -/

theorem exec_ldDtVx (x : Reg) (s : State) : exec (.ldDtVx x) s = .next { handlerEntry s with dt := s.v[x] } := rfl

theorem exec_ldVxDt (x : Reg) (s : State) : exec (.ldVxDt x) s = .next ((handlerEntry s).setV x s.dt) := rfl

theorem exec_ldStVx (x : Reg) (s : State) : exec (.ldStVx x) s = .next { handlerEntry s with st := s.v[x] } := rfl

/-! ### All other instructions neither read nor write a timer -/

/-- s with other values in the two timers. -/
def State.withTimers (s : State) (d b : Byte) : State := { s with dt := d, st := b }

/-- The meaning completes, and with any other timer values it gives the same next state with those values: it neither reads
nor writes DT or ST. -/
def TimersFree (m : State → Host.Outcome State Fault Refusal) : Prop :=
  ∀ s : State, ∃ t, m s = .next t ∧ ∀ d b : Byte, m (s.withTimers d b) = .next (t.withTimers d b)

/-- An update of the state that commutes with the timers is such a meaning. -/
theorem TimersFree.next {f : State → State} (h : ∀ s d b, f (s.withTimers d b) = (f s).withTimers d b) :
    TimersFree (fun s => .next (f s)) :=
  fun s => ⟨f s, rfl, fun d b => congrArg Host.Outcome.next (h s d b)⟩

/-- So is a choice between two of them, on a condition that no timer decides. -/
theorem TimersFree.ite {c : State → Prop} [DecidablePred c] {m m' : State → Host.Outcome State Fault Refusal}
    (hc : ∀ s d b, c (s.withTimers d b) ↔ c s) (h : TimersFree m) (h' : TimersFree m') :
    TimersFree (fun s => if c s then m s else m' s) := by
  intro s
  simp only [hc]
  split_ifs
  · exact h s
  · exact h' s

theorem withTimers_skipIf (s : State) (c : Bool) (d b : Byte) :
    (s.withTimers d b).skipIf c = (s.skipIf c).withTimers d b := by
  cases c <;> rfl

/-- A skip is such a meaning when no timer decides its condition. -/
theorem TimersFree.skip {c : State → Bool} (hc : ∀ s d b, c (s.withTimers d b) = c s) :
    TimersFree (fun s => .next ((handlerEntry s).skipIf (c s))) := by
  refine .next fun s d b => ?_
  rw [hc]
  exact withTimers_skipIf (handlerEntry s) (c s) d b

theorem timersFree_execLdVxK (x : Reg) : TimersFree (execLdVxK x) := by
  intro s
  have hkeys : ∀ d b, (s.withTimers d b).keys = s.keys := fun _ _ => rfl
  simp only [execLdVxK, hkeys]
  cases highestKey s.keys with
  | none => exact ⟨_, rfl, fun _ _ => rfl⟩
  | some k => exact ⟨_, rfl, fun _ _ => rfl⟩

theorem timersFree_exec (i : Instr) (hi : ∀ x, i ≠ .ldVxDt x ∧ i ≠ .ldDtVx x ∧ i ≠ .ldStVx x) : TimersFree (exec i) := by
  have fault : ∀ c w, TimersFree (fun s => .next (takeFault c w s)) := fun _ _ => .next fun _ _ _ => rfl
  cases i with
  | ldVxDt x => exact absurd rfl (hi x).1
  | ldDtVx x => exact absurd rfl (hi x).2.1
  | ldStVx x => exact absurd rfl (hi x).2.2
  | ldVxK x => exact timersFree_execLdVxK x
  | seVxKk | sneVxKk | seVxVy | sneVxVy => exact .skip fun _ _ _ => rfl
  | skpVx | sknpVx => exact .ite (fun _ _ _ => .rfl) (fault _ _) (.skip fun _ _ _ => rfl)
  | ret | callNnn => exact .ite (fun _ _ _ => .rfl) (fault _ _) (.next fun _ _ _ => rfl)
  | drwVxVyN | ldBVx | ldMemVx | ldVxMem => exact .ite (fun _ _ _ => .rfl) (.next fun _ _ _ => rfl) (fault _ _)
  | _ => exact .next fun _ _ _ => rfl

/-! ### No instruction reads ST -/

/-- Such a meaning keeps the timers it finds, so another value of ST before it is the one change after it. -/
theorem TimersFree.with_st {m : State → Host.Outcome State Fault Refusal} (h : TimersFree m) (s : State) (b : Byte) :
    ∃ t t', m s = .next t ∧ m { s with st := b } = .next t' ∧ { t' with st := t.st } = t := by
  obtain ⟨t, ht, htimers⟩ := h s
  have hkept : t = t.withTimers s.dt s.st := Host.Outcome.next.inj (ht.symm.trans (htimers s.dt s.st))
  refine ⟨t, t.withTimers s.dt b, ht, htimers s.dt b, ?_⟩
  rw [hkept]
  rfl

/-- Another value of ST before any instruction changes at most ST in the next state: LD ST, Vx writes over it, and every other
instruction keeps it (R30). -/
theorem exec_with_st (i : Instr) (s : State) (b : Byte) :
    ∃ t t', exec i s = .next t ∧ exec i { s with st := b } = .next t' ∧ { t' with st := t.st } = t := by
  cases i with
  | ldVxDt x => exact ⟨_, _, exec_ldVxDt x s, exec_ldVxDt x _, rfl⟩
  | ldDtVx x => exact ⟨_, _, exec_ldDtVx x s, exec_ldDtVx x _, rfl⟩
  | ldStVx x => exact ⟨_, _, exec_ldStVx x s, exec_ldStVx x _, rfl⟩
  | _ => exact (timersFree_exec _ (by simp)).with_st s b

/-! ### The two obligations -/

/-- Settles O15: each write is framed by the update it is, and a tick is countDown. -/
theorem delayTimer : Obligations.DelayTimer := by
  unfold Obligations.DelayTimer
  refine ⟨fun x s => ⟨decodeWord_ldDtVx x, _, exec_ldDtVx x s, rfl, ⟨rfl, rfl⟩, ?_⟩,
    fun x s => ⟨decodeWord_ldVxDt x, _, exec_ldVxDt x s, ?_, ⟨rfl, rfl⟩, ?_⟩,
    fun s h => ⟨_, step_tick h, toNat_countDown s.dt⟩⟩
  · exact (frame_handlerEntry _ _ s).setDt (by simp) _
  · rw [setV_read, if_pos rfl]
  · exact (frame_handlerEntry _ _ s).setV (by simp) _

/-- Settles O16: the write is framed by the update it is, a tick is countDown, and exec_with_st says that ST is not read. -/
theorem soundTimer : Obligations.SoundTimer := by
  unfold Obligations.SoundTimer
  refine ⟨fun x s => ⟨decodeWord_ldStVx x, _, exec_ldStVx x s, rfl, ⟨rfl, rfl⟩, ?_⟩,
    fun s h => ⟨_, step_tick h, toNat_countDown s.st⟩, fun _ => rfl, exec_with_st⟩
  exact (frame_handlerEntry _ _ s).setSt (by simp) _

end Sys2Proof.Machine
end

section
/-! SUPPORT. The no-op space (spec/30_encoding.md R77): each multiplexed family answers a no-op for the sub-opcodes it does not
hold, and a no-op is handler entry alone. -/

namespace Sys2Proof.Machine

/-! ### The sub-opcodes that no row of a multiplexed family holds -/

theorem decodeLowNibbleZero_noop {w : Word} (i : Reg → Reg → Instr) (h : nOf w ≠ 0) :
    decodeLowNibbleZero w i = .noop w :=
  if_neg h

theorem decodeFamily8_noop {w : Word} (h : nOf w ∈ [8, 9, 0xA, 0xB, 0xC, 0xD, 0xF]) : decodeFamily8 w = .noop w := by
  unfold decodeFamily8
  split
  case h_10 => rfl
  all_goals next hlisted => simp [hlisted] at h

theorem decodeFamilyE_noop {w : Word} (h : kkOf w ∉ [0x9E, 0xA1]) : decodeFamilyE w = .noop w := by
  unfold decodeFamilyE
  split
  case h_3 => rfl
  all_goals next hlisted => simp [hlisted] at h

theorem decodeFamilyF_noop {w : Word} (h : kkOf w ∉ [0x07, 0x0A, 0x15, 0x18, 0x1E, 0x29, 0x33, 0x55, 0x65]) :
    decodeFamilyF w = .noop w := by
  unfold decodeFamilyF
  split
  case h_10 => rfl
  all_goals next hlisted => simp [hlisted] at h

/-! ### The families of the no-op space -/

theorem decodeWord_family5 {w : Word} (h : opOf w = 5) : decodeWord w = decodeLowNibbleZero w .seVxVy := by
  simp [decodeWord, h]

theorem decodeWord_family8 {w : Word} (h : opOf w = 8) : decodeWord w = decodeFamily8 w := by
  simp [decodeWord, h]

theorem decodeWord_family9 {w : Word} (h : opOf w = 9) : decodeWord w = decodeLowNibbleZero w .sneVxVy := by
  simp [decodeWord, h]

theorem decodeWord_familyE {w : Word} (h : opOf w = 0xE) : decodeWord w = decodeFamilyE w := by
  simp [decodeWord, h]

theorem decodeWord_familyF {w : Word} (h : opOf w = 0xF) : decodeWord w = decodeFamilyF w := by
  simp [decodeWord, h]

/-! ### The obligation -/

theorem exec_noop (w : Word) (s : State) : exec (.noop w) s = .next (handlerEntry s) := rfl

/-- Settles O28: each family answers a no-op outside its sub-opcodes, and handler entry changes no part of a frame. -/
theorem noopSpace : Obligations.NoopSpace := by
  unfold Obligations.NoopSpace
  intro w s h
  refine ⟨?_, handlerEntry s, exec_noop w s, ⟨rfl, rfl⟩, frame_handlerEntry _ _ s⟩
  obtain ⟨hop, hn⟩ | ⟨hop, hn⟩ | ⟨hop, hn⟩ | ⟨hop, hkk⟩ | ⟨hop, hkk⟩ := h
  · exact (decodeWord_family5 hop).trans (decodeLowNibbleZero_noop _ hn)
  · exact (decodeWord_family8 hop).trans (decodeFamily8_noop hn)
  · exact (decodeWord_family9 hop).trans (decodeLowNibbleZero_noop _ hn)
  · exact (decodeWord_familyE hop).trans (decodeFamilyE_noop hkk)
  · exact (decodeWord_familyF hop).trans (decodeFamilyF_noop hkk)

end Sys2Proof.Machine
end

section
/-! SUPPORT. System and control flow (spec/40_system_flow.md): the two ways a skip ends (R95 to R98), the jump (R93) and the
clearing of the screen (R91). -/

namespace Sys2Proof.Machine

/-! ### What the writes of these instructions keep of a frame -/

/-- PC is outside every frame. -/
theorem Frame.setPc {parts : List Part} {regs : List Reg} {s t : State} (h : Frame parts regs s t) (target : Word) :
    Frame parts regs s (t.setPc target) := h

theorem Frame.skipIf {parts : List Part} {regs : List Reg} {s t : State} (h : Frame parts regs s t) (c : Bool) :
    Frame parts regs s (t.skipIf c) := by
  cases c with
  | false => exact h
  | true => exact h.setPc _

theorem Frame.setFb {parts : List Part} {regs : List Reg} {s t : State} (h : Frame parts regs s t)
    (hp : .screen ∈ parts) (fb : FrameBuffer) : Frame parts regs s { t with fb := fb } := by
  obtain ⟨hv, hi, hstack, hdt, hst, -, hrest⟩ := h
  exact ⟨hv, hi, hstack, hdt, hst, fun hn => absurd hp hn, hrest⟩

theorem Frame.setDirty {parts : List Part} {regs : List Reg} {s t : State} (h : Frame parts regs s t)
    (hp : .dirty ∈ parts) (d : Bool) : Frame parts regs s { t with dirty := d } := by
  obtain ⟨hv, hi, hstack, hdt, hst, hfb, -, hrest⟩ := h
  exact ⟨hv, hi, hstack, hdt, hst, hfb, fun hn => absurd hp hn, hrest⟩

/-! ### Skips -/

/-- A skip adds 2 to the PC of handler entry, which is a + 2 already (R95). -/
theorem skipped_skipIf {c : Bool} {taken : Prop} (hc : c = true ↔ taken) (s : State) :
    Skipped taken s ((handlerEntry s).skipIf c) := by
  refine ⟨fun h => ?_, fun h => ?_, ?_⟩
  · rw [skipIf_pc, if_pos (hc.mpr h), handlerEntry_pc, BitVec.add_assoc]
    rfl
  · rw [skipIf_pc, if_neg (mt hc.mp h), handlerEntry_pc]
  · rw [skipIf_runState, handlerEntry_runState]

theorem frame_skipIf_handlerEntry (s : State) (c : Bool) : Frame [] [] s ((handlerEntry s).skipIf c) :=
  (frame_handlerEntry [] [] s).skipIf c

theorem exec_seVxKk (x : Reg) (kk : Byte) (s : State) :
    exec (.seVxKk x kk) s = .next ((handlerEntry s).skipIf (s.v[x] == kk)) := rfl

theorem exec_sneVxKk (x : Reg) (kk : Byte) (s : State) :
    exec (.sneVxKk x kk) s = .next ((handlerEntry s).skipIf (s.v[x] != kk)) := rfl

theorem exec_seVxVy (x y : Reg) (s : State) :
    exec (.seVxVy x y) s = .next ((handlerEntry s).skipIf (s.v[x] == s.v[y])) := rfl

theorem exec_sneVxVy (x y : Reg) (s : State) :
    exec (.sneVxVy x y) s = .next ((handlerEntry s).skipIf (s.v[x] != s.v[y])) := rfl

/-! ### The jump and the clearing of the screen -/

theorem exec_jpNnn (nnn : Addr) (s : State) :
    exec (.jpNnn nnn) s = .next ((handlerEntry s).setPc (addrOperand nnn)) := rfl

theorem exec_cls (s : State) : exec .cls s = .next { handlerEntry s with fb := FrameBuffer.blank, dirty := true } := rfl

theorem blank_pixel (py : Fin 32) (px : Fin 64) : FrameBuffer.blank[py][px] = false := by
  simp [FrameBuffer.blank]

/-! ### The words of the skips and the jump -/

theorem decodeWord_seVxKk (x : Reg) (kk : Byte) : decodeWord (encode (.seVxKk x kk)) = .seVxKk x kk := by
  simp [encode, decodeWord]

theorem decodeWord_sneVxKk (x : Reg) (kk : Byte) : decodeWord (encode (.sneVxKk x kk)) = .sneVxKk x kk := by
  simp [encode, decodeWord]

theorem decodeWord_jpNnn (nnn : Addr) : decodeWord (encode (.jpNnn nnn)) = .jpNnn nnn := by
  simp [encode, decodeWord]

/-- Families 5 and 9 with low nibble 0 hold their one instruction (R76). -/
theorem decodeLowNibbleZero_zero (i : Reg → Reg → Instr) (op : Nibble) (x y : Reg) :
    decodeLowNibbleZero (encodeFXYN op x y 0) i = i x y := by
  simp [decodeLowNibbleZero]

/-- With any other low nibble they hold a no-op (R77). -/
theorem decodeLowNibbleZero_ne_zero (i : Reg → Reg → Instr) (op : Nibble) (x y : Reg) {n : Nibble} (hn : n ≠ 0) :
    decodeLowNibbleZero (encodeFXYN op x y n) i = .noop (encodeFXYN op x y n) :=
  decodeLowNibbleZero_noop i (by rwa [nOf_encodeFXYN])

theorem decodeWord_encodeFXYN_5 (x y : Reg) (n : Nibble) :
    decodeWord (encodeFXYN 5 x y n) = decodeLowNibbleZero (encodeFXYN 5 x y n) .seVxVy :=
  decodeWord_family5 (opOf_encodeFXYN 5 x y n)

theorem decodeWord_encodeFXYN_9 (x y : Reg) (n : Nibble) :
    decodeWord (encodeFXYN 9 x y n) = decodeLowNibbleZero (encodeFXYN 9 x y n) .sneVxVy :=
  decodeWord_family9 (opOf_encodeFXYN 9 x y n)

/-! ### The obligations -/

/-- Settles O34: SE skips on equality and SNE on its negation, each as skipped_skipIf says. -/
theorem skipsOnByte : Obligations.SkipsOnByte := by
  unfold Obligations.SkipsOnByte
  exact fun x kk s => ⟨decodeWord_seVxKk x kk, decodeWord_sneVxKk x kk,
    ⟨_, exec_seVxKk x kk s, skipped_skipIf beq_iff_eq s, frame_skipIf_handlerEntry s _⟩,
    ⟨_, exec_sneVxKk x kk s, skipped_skipIf bne_iff_ne s, frame_skipIf_handlerEntry s _⟩⟩

/-- Settles O35: the low nibble alone decides whether the word is a skip, and the skips end as skipped_skipIf says. -/
theorem skipsOnRegisters : Obligations.SkipsOnRegisters := by
  unfold Obligations.SkipsOnRegisters
  refine fun x y s => ⟨(decodeWord_encodeFXYN_5 x y 0).trans (decodeLowNibbleZero_zero _ _ x y),
    (decodeWord_encodeFXYN_9 x y 0).trans (decodeLowNibbleZero_zero _ _ x y), fun n hn w hw => ?_,
    ⟨_, exec_seVxVy x y s, skipped_skipIf beq_iff_eq s, frame_skipIf_handlerEntry s _⟩,
    ⟨_, exec_sneVxVy x y s, skipped_skipIf bne_iff_ne s, frame_skipIf_handlerEntry s _⟩⟩
  obtain rfl | rfl := hw
  · exact (decodeWord_encodeFXYN_5 x y n).trans (decodeLowNibbleZero_ne_zero _ _ x y hn)
  · exact (decodeWord_encodeFXYN_9 x y n).trans (decodeLowNibbleZero_ne_zero _ _ x y hn)

/-- Settles O30: the new frame buffer is the blank one, and its two writes are framed one after the other. -/
theorem clsClearsScreen : Obligations.ClsClearsScreen := by
  unfold Obligations.ClsClearsScreen
  refine ⟨rfl, fun s => ⟨_, exec_cls s, blank_pixel, rfl, ⟨rfl, rfl⟩, ?_⟩⟩
  exact ((frame_handlerEntry _ _ s).setFb (by simp) FrameBuffer.blank).setDirty (by simp) true

/-- Settles O32: PC takes the zero-extended operand, and PC is outside every frame. -/
theorem jpJumps : Obligations.JpJumps := by
  unfold Obligations.JpJumps
  exact fun nnn s => ⟨decodeWord_jpNnn nnn, _, exec_jpNnn nnn s, toNat_addrOperand nnn, rfl,
    (frame_handlerEntry _ _ s).setPc _⟩

end Sys2Proof.Machine
end

section
/-! SUPPORT. Immediate loads and additions, and the two flag writers of register arithmetic (spec/41_load_alu.md R110, R111,
R116, R117): each writes V[x] at handler entry, and a flag writer then writes VF. -/

namespace Sys2Proof.Machine

/-! ### One write of a register -/

theorem advanced_setV (s : State) (x : Reg) (b : Byte) : Advanced s ((handlerEntry s).setV x b) := ⟨rfl, rfl⟩

theorem frame_setV_handlerEntry (s : State) (x : Reg) (b : Byte) : Frame [] [x] s ((handlerEntry s).setV x b) :=
  (frame_handlerEntry _ _ s).setV (List.mem_singleton_self x) b

/-- The register written reads as the byte written. -/
theorem setV_read_self (s : State) (x : Reg) (b : Byte) : (s.setV x b).v[x] = b := by
  rw [setV_read, if_pos rfl]

/-! ### A result in V[x], then a flag in VF -/

theorem Frame.setFlag {parts : List Part} {regs : List Reg} {s t : State} (h : Frame parts regs s t)
    (hvf : 15 ∈ regs) (f : Bool) : Frame parts regs s (t.setFlag f) := h.setV hvf _

theorem advanced_setV_setFlag (s : State) (x : Reg) (b : Byte) (f : Bool) :
    Advanced s (((handlerEntry s).setV x b).setFlag f) := ⟨rfl, rfl⟩

theorem frame_setV_setFlag (s : State) (x : Reg) (b : Byte) (f : Bool) :
    Frame [] [x, 15] s (((handlerEntry s).setV x b).setFlag f) :=
  ((frame_handlerEntry _ _ s).setV (by simp) b).setFlag (by simp) f

/-- The flag's write spares the result in every register but VF. -/
theorem setV_setFlag_read_result (s : State) {x : Reg} (hx : x ≠ 15) (b : Byte) (f : Bool) :
    ((s.setV x b).setFlag f).v[x] = b := by
  rw [setV_setFlag_read, if_neg hx, if_pos rfl]

/-- The flag is the last write, so VF holds it whatever was written before (R21). -/
theorem flagIs_setFlag {f : Bool} {c : Prop} (hf : f = true ↔ c) (s : State) : FlagIs c (s.setFlag f) := by
  refine ⟨fun hc => ?_, fun hc => ?_⟩
  · rw [setFlag_read, if_pos rfl, if_pos (hf.mpr hc)]
  · rw [setFlag_read, if_pos rfl, if_neg (mt hf.mp hc)]

/-! ### The instructions -/

theorem exec_ldVxKk (x : Reg) (kk : Byte) (s : State) : exec (.ldVxKk x kk) s = .next ((handlerEntry s).setV x kk) := rfl

theorem exec_addVxKk (x : Reg) (kk : Byte) (s : State) :
    exec (.addVxKk x kk) s = .next ((handlerEntry s).setV x (s.v[x] + kk)) := rfl

theorem exec_addVxVy (x y : Reg) (s : State) :
    exec (.addVxVy x y) s =
      .next (((handlerEntry s).setV x (s.v[x] + s.v[y])).setFlag (carryFlag s.v[x] s.v[y])) := rfl

theorem exec_subVxVy (x y : Reg) (s : State) :
    exec (.subVxVy x y) s =
      .next (((handlerEntry s).setV x (s.v[x] - s.v[y])).setFlag (greaterFlag s.v[x] s.v[y])) := rfl

/-- The difference of two bytes is that of their numbers modulo 256, never negative (R117). -/
theorem toNat_byteSub (a b : Byte) : ((a - b).toNat : Int) = ((a.toNat : Int) - b.toNat) % 256 := by
  have := b.isLt
  rw [BitVec.toNat_sub]
  omega

/-! ### Their words -/

theorem decodeWord_ldVxKk (x : Reg) (kk : Byte) : decodeWord (encode (.ldVxKk x kk)) = .ldVxKk x kk := by
  simp [encode, decodeWord]

theorem decodeWord_addVxKk (x : Reg) (kk : Byte) : decodeWord (encode (.addVxKk x kk)) = .addVxKk x kk := by
  simp [encode, decodeWord]

theorem decodeWord_encodeFXYN_8 (x y : Reg) (n : Nibble) :
    decodeWord (encodeFXYN 0x8#4 x y n) = decodeFamily8 (encodeFXYN 0x8#4 x y n) :=
  decodeWord_family8 (opOf_encodeFXYN 0x8#4 x y n)

theorem decodeWord_addVxVy (x y : Reg) : decodeWord (encode (.addVxVy x y)) = .addVxVy x y := by
  simp [encode, decodeWord_encodeFXYN_8, decodeFamily8]

theorem decodeWord_subVxVy (x y : Reg) : decodeWord (encode (.subVxVy x y)) = .subVxVy x y := by
  simp [encode, decodeWord_encodeFXYN_8, decodeFamily8]

/-! ### The obligations -/

/-- Settles O37: each instruction is one write of V[x], and the sum of two bytes wraps at 256. -/
theorem immediateLoadAndAdd : Obligations.ImmediateLoadAndAdd := by
  unfold Obligations.ImmediateLoadAndAdd
  refine fun x kk s => ⟨decodeWord_ldVxKk x kk, decodeWord_addVxKk x kk,
    ⟨_, exec_ldVxKk x kk s, setV_read_self _ x kk, advanced_setV s x _, frame_setV_handlerEntry s x _⟩,
    ⟨_, exec_addVxKk x kk s, ?_, advanced_setV s x _, frame_setV_handlerEntry s x _⟩⟩
  rw [setV_read_self]
  exact BitVec.toNat_add _ _

/-- Settles O39: the sum stands in V[x] unless the flag's write takes its place, and the flag is the carry for every x. -/
theorem addSetsCarry : Obligations.AddSetsCarry := by
  unfold Obligations.AddSetsCarry
  intro x y s
  obtain ⟨hcarry, hnone⟩ := flagIs_setFlag (carryFlag_iff s.v[x] s.v[y]) ((handlerEntry s).setV x (s.v[x] + s.v[y]))
  refine ⟨decodeWord_addVxVy x y, _, exec_addVxVy x y s, fun hx => ?_, hcarry, fun h => hnone (Nat.not_le.mpr h),
    advanced_setV_setFlag s x _ _, frame_setV_setFlag s x _ _⟩
  rw [setV_setFlag_read_result _ hx]
  exact BitVec.toNat_add _ _

/-- Settles O40: the difference stands in V[x] unless the flag's write takes its place, and the flag is the strict comparison
for every x. -/
theorem subSetsGreater : Obligations.SubSetsGreater := by
  unfold Obligations.SubSetsGreater
  intro x y s
  obtain ⟨hgreater, hnot⟩ := flagIs_setFlag (greaterFlag_iff s.v[x] s.v[y]) ((handlerEntry s).setV x (s.v[x] - s.v[y]))
  refine ⟨decodeWord_subVxVy x y, _, exec_subVxVy x y s, fun hx => ?_, hgreater, fun h => hnot (Nat.not_lt.mpr h),
    advanced_setV_setFlag s x _ _, frame_setV_setFlag s x _ _⟩
  rw [setV_setFlag_read_result _ hx]
  exact toNat_byteSub _ _

end Sys2Proof.Machine
end

section
/-! SUPPORT. LD I, nnn (spec/42_index_random_draw.md R130): the zero-extended operand in I, framed as a write of the index. -/

namespace Sys2Proof.Machine

theorem Frame.setI {parts : List Part} {regs : List Reg} {s t : State} (h : Frame parts regs s t)
    (hp : .index ∈ parts) (w : Word) : Frame parts regs s { t with i := w } := by
  obtain ⟨hv, -, hrest⟩ := h
  exact ⟨hv, fun hn => absurd hp hn, hrest⟩

theorem exec_ldINnn (nnn : Addr) (s : State) :
    exec (.ldINnn nnn) s = .next { handlerEntry s with i := addrOperand nnn } := rfl

theorem decodeWord_ldINnn (nnn : Addr) : decodeWord (encode (.ldINnn nnn)) = .ldINnn nnn := by
  simp [encode, decodeWord]

/-- Settles O44: I takes the zero-extended operand at handler entry, which has moved PC on, and no other part is written. -/
theorem ldISetsIndex : Obligations.LdISetsIndex := by
  unfold Obligations.LdISetsIndex
  exact fun nnn s => ⟨decodeWord_ldINnn nnn, _, exec_ldINnn nnn s, toNat_addrOperand nnn, ⟨rfl, rfl⟩,
    (frame_handlerEntry _ _ s).setI (List.mem_singleton_self _) _⟩

end Sys2Proof.Machine
end

section
/-! SUPPORT. LD F, Vx (spec/43_keys_misc.md R157): the address of the glyph in I, framed as a write of the index. -/

namespace Sys2Proof.Machine

theorem exec_ldFVx (x : Reg) (s : State) :
    exec (.ldFVx x) s = .next { handlerEntry s with i := glyphAddress s.v[x] } := rfl

theorem decodeWord_ldFVx (x : Reg) : decodeWord (encode (.ldFVx x)) = .ldFVx x := by
  simp [encode, decodeWord_encodeFXK_F, decodeFamilyF]

/-- Settles O53: 5 * V[x] fits a word, so the address in I is the product itself, and no other part is written. -/
theorem ldFPointsAtGlyph : Obligations.LdFPointsAtGlyph := by
  unfold Obligations.LdFPointsAtGlyph
  exact fun x s => ⟨decodeWord_ldFVx x, _, exec_ldFVx x s, toNat_glyphAddress s.v[x], ⟨rfl, rfl⟩,
    (frame_handlerEntry _ _ s).setI (List.mem_singleton_self _) _⟩

end Sys2Proof.Machine
end

section
/-! SUPPORT. The key wait (spec/70_reset_and_hazards.md R219) and what reset leaves (R212): a step or a tick at Fx0A with no key
pressed makes no progress, no progress adds up along a run and keeps the engine at Fx0A, and a pressed key ends the wait. -/

namespace Sys2Proof.Machine

/-! ### Frames along a run -/

theorem Frame.refl (parts : List Part) (regs : List Reg) (s : State) : Frame parts regs s s := by
  simp [Frame]

theorem Frame.trans {parts : List Part} {regs : List Reg} {s t u : State} (h : Frame parts regs s t)
    (h' : Frame parts regs t u) : Frame parts regs s u := by
  obtain ⟨hv, hi, hstack, hdt, hst, hfb, hdirty, hfault, hmem, hkeys, hdraws, hsched, hload⟩ := h
  obtain ⟨hv', hi', hstack', hdt', hst', hfb', hdirty', hfault', hmem', hkeys', hdraws', hsched', hload'⟩ := h'
  refine ⟨fun r hr => (hv' r hr).trans (hv r hr), fun hp => (hi' hp).trans (hi hp), fun hp => ?_,
    fun hp => (hdt' hp).trans (hdt hp), fun hp => (hst' hp).trans (hst hp), fun hp => (hfb' hp).trans (hfb hp),
    fun hp => (hdirty' hp).trans (hdirty hp), fun hp => ?_, fun hp a => (hmem' hp a).trans (hmem hp a),
    fun hp => (hkeys' hp).trans (hkeys hp), fun hp => (hdraws' hp).trans (hdraws hp), fun hp => ?_,
    fun hp => (hload' hp).trans (hload hp)⟩
  · simp [hstack' hp, hstack hp]
  · simp [hfault' hp, hfault hp]
  · simp [hsched' hp, hsched hp]

/-- Taking the next event off the schedule writes the schedule alone. -/
theorem frame_dueState {parts : List Part} (hp : .schedule ∈ parts) (regs : List Reg) (s : State) :
    Frame parts regs s (dueState s) := by
  simp [Frame, dueState, hp]

theorem Frame.tickEvent {parts : List Part} {regs : List Reg} {s t : State} (h : Frame parts regs s t)
    (hd : .delayTimer ∈ parts) (hs : .soundTimer ∈ parts) : Frame parts regs s (tickEvent t) :=
  (h.setDt hd (countDown t.dt)).setSt hs (countDown t.st)

/-! ### LD Vx, K, without and with a key pressed -/

theorem exec_ldVxK_unpressed (x : Reg) {s : State} (h : s.keys = 0) :
    exec (.ldVxK x) s = .next { handlerEntry s with pc := s.pc, runState := .waiting } := by
  have hnone : highestKey s.keys = none := (highestKey_none_iff _).mpr h
  simp only [exec, execLdVxK, hnone]

theorem exec_ldVxK_pressed (x : Reg) {s : State} (h : s.keys ≠ 0) :
    ∃ k, highestKey s.keys = some k ∧ exec (.ldVxK x) s = .next ((handlerEntry s).setV x k) := by
  obtain ⟨k, hk⟩ := Option.ne_none_iff_exists'.mp (mt (highestKey_none_iff s.keys).mp h)
  exact ⟨k, hk, by simp only [exec, execLdVxK, hk]⟩

/-! ### The engine at Fx0A -/

/-- A step would fetch LD Vx, K and execute it. -/
structure AtKeyWait (x : Reg) (s : State) : Prop where
  notFaulted : s.runState ≠ .faulted
  fetchable : s.pc.toNat + 1 ≤ 0xFFF
  fetched : decodeWord (fetchWord s) = .ldVxK x

theorem AtKeyWait.step_eq {x : Reg} {s : State} (h : AtKeyWait x s) (hdue : nextEvent s = some .step) :
    step s = exec (.ldVxK x) (dueState s) :=
  calc step s = engineStep (dueState s) := step_engine hdue
    _ = exec (decodeWord (fetchWord s)) (dueState s) := engineStep_fetched (s := dueState s) h.notFaulted h.fetchable
    _ = exec (.ldVxK x) (dueState s) := by rw [h.fetched]

/-- A step that finds a key pressed ends the wait (R153). -/
theorem AtKeyWait.step_pressed {x : Reg} {s : State} (h : AtKeyWait x s) (hdue : nextEvent s = some .step)
    (hkeys : s.keys ≠ 0) : ∃ u, step s = .next u ∧ Advanced s u := by
  obtain ⟨k, -, hexec⟩ := exec_ldVxK_pressed x (s := dueState s) hkeys
  exact ⟨_, (h.step_eq hdue).trans hexec, advanced_setV (dueState s) x k⟩

/-! ### No progress -/

/-- From s to t the engine has not moved on: PC stands, no fault was taken, and only the timers and the schedule changed. -/
structure NoProgress (s t : State) : Prop where
  pc : t.pc = s.pc
  notFaulted : t.runState ≠ .faulted
  frame : Frame [.delayTimer, .soundTimer, .schedule] [] s t

theorem NoProgress.refl {s : State} (h : s.runState ≠ .faulted) : NoProgress s s := ⟨rfl, h, .refl _ _ s⟩

theorem NoProgress.trans {s t u : State} (h : NoProgress s t) (h' : NoProgress t u) : NoProgress s u :=
  ⟨h'.pc.trans h.pc, h'.notFaulted, h.frame.trans h'.frame⟩

theorem NoProgress.mem_read {s t : State} (h : NoProgress s t) (a : Nat) : t.mem.read a = s.mem.read a := by
  obtain ⟨-, -, -, -, -, -, -, -, hmem, -⟩ := h.frame
  exact hmem (by decide) a

theorem NoProgress.keys {s t : State} (h : NoProgress s t) : t.keys = s.keys := by
  obtain ⟨-, -, -, -, -, -, -, -, -, hkeys, -⟩ := h.frame
  exact hkeys (by decide)

/-- Neither PC nor memory has changed, so the next fetch finds the same instruction. -/
theorem AtKeyWait.of_noProgress {x : Reg} {s t : State} (h : AtKeyWait x s) (hst : NoProgress s t) : AtKeyWait x t := by
  have hfetch : fetchWord t = fetchWord s := by simp only [fetchWord, hst.pc, hst.mem_read]
  exact ⟨hst.notFaulted, hst.pc ▸ h.fetchable, hfetch ▸ h.fetched⟩

/-- A step at Fx0A that finds no key pressed waits on. -/
theorem noProgress_wait (s : State) :
    NoProgress s { handlerEntry (dueState s) with pc := s.pc, runState := .waiting } :=
  ⟨rfl, by simp, (frame_dueState (by simp) _ s).trans (frame_handlerEntry _ _ (dueState s))⟩

theorem noProgress_tick {s : State} (h : s.runState ≠ .faulted) : NoProgress s (tickEvent (dueState s)) :=
  ⟨rfl, h, (frame_dueState (by simp) _ s).tickEvent (by simp) (by simp)⟩

/-- One event at Fx0A with no key pressed, where the next event is a step, a tick or none: no progress, and what follows on
the schedule is what followed before. -/
theorem AtKeyWait.event_unpressed {x : Reg} {s : State} (h : AtKeyWait x s) (hkeys : s.keys = 0)
    (hdue : ∀ e, nextEvent s = some e → e = .step ∨ e = .tick) :
    ∃ t, step s = .next t ∧ NoProgress s t ∧ ∀ k, scheduledAt k t = scheduledAt (k + 1) s := by
  cases he : nextEvent s with
  | none =>
    refine ⟨s, step_ended he, .refl h.notFaulted, fun k => ?_⟩
    rw [scheduledAt, dueState_ended he]
  | some e =>
    obtain rfl | rfl := hdue e he
    · exact ⟨_, (h.step_eq he).trans (exec_ldVxK_unpressed x hkeys), noProgress_wait s,
        fun k => scheduledAt_congr k rfl rfl⟩
    · exact ⟨_, step_tick he, noProgress_tick h.notFaulted, fun k => scheduledAt_congr k rfl rfl⟩

/-- However many steps and ticks come, a run at Fx0A with no key pressed makes no progress. -/
theorem AtKeyWait.run_unpressed {x : Reg} {n : Nat} {s : State} (h : AtKeyWait x s) (hkeys : s.keys = 0)
    (hsched : ∀ (k : Nat) (e : Event), k < n → scheduledAt k s = some e → e = .step ∨ e = .tick) :
    ∃ t, Host.Core.run core n s = .next t ∧ NoProgress s t := by
  induction n generalizing s with
  | zero => exact ⟨s, rfl, .refl h.notFaulted⟩
  | succ n ih =>
    obtain ⟨t, hstep, hst, hlater⟩ := h.event_unpressed hkeys fun e => hsched 0 e n.succ_pos
    obtain ⟨u, hrun, htu⟩ := ih (h.of_noProgress hst) (hst.keys.trans hkeys)
      fun k e hk he => hsched (k + 1) e (Nat.succ_lt_succ hk) ((hlater k).symm.trans he)
    exact ⟨u, (run_succ hstep).trans hrun, hst.trans htu⟩

/-! ### A reset -/

theorem step_reset {s : State} (h : nextEvent s = some .reset) : step s = .next (resetEvent (dueState s)) := step_event h

/-! ### The two obligations -/

/-- Settles O51, by induction on the number of events: none of them makes progress, so the engine stands at Fx0A still, and a
step that then finds a key pressed ends the wait. -/
theorem keyWaitMakesNoProgress : Obligations.KeyWaitMakesNoProgress := by
  unfold Obligations.KeyWaitMakesNoProgress
  intro n s x hrun hpc hfetch hkeys hsched
  have hs : AtKeyWait x s := ⟨hrun, hpc, hfetch⟩
  obtain ⟨t, ht, hst⟩ := hs.run_unpressed hkeys hsched
  have hwait : AtKeyWait x t := hs.of_noProgress hst
  refine ⟨t, ht, hst.pc, hst.notFaulted, hst.frame, fun k hk => ?_⟩
  have hpressed : AtKeyWait x { t with keys := k, schedule := [.step] } :=
    ⟨hwait.notFaulted, hwait.fetchable, hwait.fetched⟩
  obtain ⟨u, hu, hupc, hurun⟩ := hpressed.step_pressed rfl hk
  exact ⟨u, hu, hst.pc ▸ hupc, hurun⟩

/-- Settles O19: neither memory nor KEYS is among reset's writes, nor does taking the event off the schedule touch them. -/
theorem resetLeavesMemoryAndKeys : Obligations.ResetLeavesMemoryAndKeys := by
  unfold Obligations.ResetLeavesMemoryAndKeys
  intro s h
  refine ⟨_, step_reset h, fun a => ?_, ?_⟩
  · rw [resetEvent_mem]
    rfl
  · rw [resetEvent_keys]
    rfl

end Sys2Proof.Machine
end

section
/-! SUPPORT. Decoding and encoding (spec/30_encoding.md sections 1 and 2): each way back gives what it came from, and the decoded
instruction's row of spec/opcode_table.json is the first that the word matches. -/

namespace Sys2Proof.Machine

/-! ### Decoding the word of an instruction -/

theorem decodeWord_family0 {w : Word} (h : opOf w = 0) : decodeWord w = decodeFamily0 w := by
  simp [decodeWord, h]

theorem decodeFamily0_sysNnn {nnn : Addr} (h : sysOk nnn = true) : decodeFamily0 (encodeFA 0x0#4 nnn) = .sysNnn nnn := by
  have word_ne : ∀ w : Word, nnn ≠ nnnOf w → encodeFA 0x0#4 nnn ≠ w := fun w hw he =>
    hw ((nnnOf_encodeFA 0x0#4 nnn).symm.trans (congrArg nnnOf he))
  obtain ⟨hcls, hret⟩ : nnn ≠ 0x0E0#12 ∧ nnn ≠ 0x0EE#12 := by simpa [sysOk] using h
  rw [decodeFamily0, if_neg (word_ne 0x00E0#16 hcls), if_neg (word_ne 0x00EE#16 hret), nnnOf_encodeFA]

/-- The no-op space in terms of the fields of a word (R77). -/
theorem isNoopWord_iff (w : Word) : isNoopWord w = true ↔
    (opOf w = 5 ∧ nOf w ≠ 0) ∨ (opOf w = 8 ∧ isAluSubOp (nOf w) = false) ∨ (opOf w = 9 ∧ nOf w ≠ 0) ∨
      (opOf w = 0xE ∧ isKeySubOp (kkOf w) = false) ∨ (opOf w = 0xF ∧ isMiscSubOp (kkOf w) = false) := by
  simp [isNoopWord, opOf, nOf, kkOf, or_assoc]

/-- The sub-opcodes of family 8 that are not instructions, listed as R77 lists them. -/
theorem not_isAluSubOp : ∀ {n : Nibble}, isAluSubOp n = false → n ∈ [8, 9, 0xA, 0xB, 0xC, 0xD, 0xF] := by decide

theorem decodeWord_noop {w : Word} (h : isNoopWord w = true) : decodeWord w = .noop w := by
  obtain ⟨hop, hn⟩ | ⟨hop, hn⟩ | ⟨hop, hn⟩ | ⟨hop, hkk⟩ | ⟨hop, hkk⟩ := (isNoopWord_iff w).mp h
  · exact (decodeWord_family5 hop).trans (decodeLowNibbleZero_noop _ hn)
  · exact (decodeWord_family8 hop).trans (decodeFamily8_noop (not_isAluSubOp hn))
  · exact (decodeWord_family9 hop).trans (decodeLowNibbleZero_noop _ hn)
  · exact (decodeWord_familyE hop).trans (decodeFamilyE_noop (by simpa [isKeySubOp] using hkk))
  · exact (decodeWord_familyF hop).trans (decodeFamilyF_noop (by simpa [isMiscSubOp] using hkk))

theorem decodeWord_encode {i : Instr} (h : i.wellFormed = true) : decodeWord (encode i) = i := by
  cases i with
  | cls | ret => rfl
  | sysNnn nnn => exact (decodeWord_family0 (opOf_encodeFA 0 nnn)).trans (decodeFamily0_sysNnn h)
  | noop w => exact decodeWord_noop h
  | seVxVy x y => exact (decodeWord_encodeFXYN_5 x y 0).trans (decodeLowNibbleZero_zero _ _ x y)
  | sneVxVy x y => exact (decodeWord_encodeFXYN_9 x y 0).trans (decodeLowNibbleZero_zero _ _ x y)
  | ldVxVy | orVxVy | andVxVy | xorVxVy | addVxVy | subVxVy | shrVx | subnVxVy | shlVx =>
    simp [encode, decodeWord_encodeFXYN_8, decodeFamily8]
  | skpVx | sknpVx => simp [encode, decodeWord_familyE, decodeFamilyE]
  | ldVxDt | ldVxK | ldDtVx | ldStVx | addIVx | ldFVx | ldBVx | ldMemVx | ldVxMem =>
    simp [encode, decodeWord_encodeFXK_F, decodeFamilyF]
  | jpNnn | callNnn | ldINnn | jpV0Nnn | seVxKk | sneVxKk | ldVxKk | addVxKk | rndVxKk | drwVxVyN =>
    simp [encode, decodeWord]

/-- Settles O8: the decoder reads the fields of the encoded word, and its bytes are that word's. -/
theorem decodeOfEncode : Obligations.DecodeOfEncode := by
  unfold Obligations.DecodeOfEncode
  intro i rest h
  refine ⟨decodeWord_encode h, ?_⟩
  show Except.ok (decodeWord (wordOfBytes _ _), rest) = _
  rw [wordOfBytes_bytesOfWord, decodeWord_encode h]

/-! ### Encoding what a word decodes to -/

theorem encodeFA_of_op {w : Word} {op : Nibble} (h : opOf w = op) : encodeFA op (nnnOf w) = w :=
  h ▸ encodeFA_fields w

theorem encodeFXK_of_op {w : Word} {op : Nibble} (h : opOf w = op) : encodeFXK op (xOf w) (kkOf w) = w :=
  h ▸ encodeFXK_fields w

theorem encodeFXK_of_op_kk {w : Word} {op : Nibble} {kk : Byte} (h : opOf w = op) (hkk : kkOf w = kk) :
    encodeFXK op (xOf w) kk = w :=
  hkk ▸ encodeFXK_of_op h

theorem encodeFXYN_of_op {w : Word} {op : Nibble} (h : opOf w = op) : encodeFXYN op (xOf w) (yOf w) (nOf w) = w :=
  h ▸ encodeFXYN_fields w

theorem encodeFXYN_of_op_n {w : Word} {op n : Nibble} (h : opOf w = op) (hn : nOf w = n) :
    encodeFXYN op (xOf w) (yOf w) n = w :=
  hn ▸ encodeFXYN_of_op h

/-- i is a well-formed instruction and w is its word. -/
def HasWord (i : Instr) (w : Word) : Prop := i.wellFormed = true ∧ encode i = w

theorem hasWord_decodeFamily0 {w : Word} (h : opOf w = 0) : HasWord (decodeFamily0 w) w := by
  unfold decodeFamily0
  split_ifs with hcls hret
  · exact ⟨rfl, hcls.symm⟩
  · exact ⟨rfl, hret.symm⟩
  · have word : encodeFA 0 (nnnOf w) = w := encodeFA_of_op h
    have nnn_ne : ∀ m : Addr, w ≠ encodeFA 0 m → nnnOf w ≠ m := fun m hm he => hm (he ▸ word.symm)
    refine ⟨?_, word⟩
    simpa [Instr.wellFormed, sysOk] using And.intro (nnn_ne 0x0E0 hcls) (nnn_ne 0x0EE hret)

theorem hasWord_noop {w : Word} (h : isNoopWord w = true) : HasWord (.noop w) w := ⟨h, rfl⟩

theorem hasWord_decodeLowNibbleZero {w : Word} {i : Reg → Reg → Instr} (h : opOf w = 5 ∨ opOf w = 9)
    (hi : nOf w = 0 → HasWord (i (xOf w) (yOf w)) w) : HasWord (decodeLowNibbleZero w i) w := by
  unfold decodeLowNibbleZero
  split_ifs with hn
  · exact hi hn
  · refine hasWord_noop ((isNoopWord_iff w).mpr ?_)
    exact h.imp (⟨·, hn⟩) fun h9 => .inr (.inl ⟨h9, hn⟩)

theorem hasWord_decodeFamily8 {w : Word} (h : opOf w = 8) : HasWord (decodeFamily8 w) w := by
  unfold decodeFamily8
  split
  case h_10 => exact hasWord_noop ((isNoopWord_iff w).mpr (.inr (.inl ⟨h, by simp_all [isAluSubOp]⟩)))
  all_goals next hn => exact ⟨rfl, encodeFXYN_of_op_n h hn⟩

theorem hasWord_decodeFamilyE {w : Word} (h : opOf w = 0xE) : HasWord (decodeFamilyE w) w := by
  unfold decodeFamilyE
  split
  case h_3 => exact hasWord_noop ((isNoopWord_iff w).mpr (.inr (.inr (.inr (.inl ⟨h, by simp_all [isKeySubOp]⟩)))))
  all_goals next hkk => exact ⟨rfl, encodeFXK_of_op_kk h hkk⟩

theorem hasWord_decodeFamilyF {w : Word} (h : opOf w = 0xF) : HasWord (decodeFamilyF w) w := by
  unfold decodeFamilyF
  split
  case h_10 => exact hasWord_noop ((isNoopWord_iff w).mpr (.inr (.inr (.inr (.inr ⟨h, by simp_all [isMiscSubOp]⟩)))))
  all_goals next hkk => exact ⟨rfl, encodeFXK_of_op_kk h hkk⟩

/-- The one nibble that the first level of decode does not name. -/
theorem nibble_eq_F : ∀ {n : Nibble}, n ∉ [0, 1, 2, 3, 4, 5, 6, 7, 8, 9, 0xA, 0xB, 0xC, 0xD, 0xE] → n = 0xF := by decide

theorem hasWord_decodeWord (w : Word) : HasWord (decodeWord w) w := by
  unfold decodeWord
  split
  case h_1 hop => exact hasWord_decodeFamily0 hop
  case h_6 hop => exact hasWord_decodeLowNibbleZero (.inl hop) fun hn => ⟨rfl, encodeFXYN_of_op_n hop hn⟩
  case h_9 hop => exact hasWord_decodeFamily8 hop
  case h_10 hop => exact hasWord_decodeLowNibbleZero (.inr hop) fun hn => ⟨rfl, encodeFXYN_of_op_n hop hn⟩
  case h_14 hop => exact ⟨rfl, encodeFXYN_of_op hop⟩
  case h_15 hop => exact hasWord_decodeFamilyE hop
  case h_16 => exact hasWord_decodeFamilyF (nibble_eq_F (by simp_all))
  case h_2 hop | h_3 hop | h_11 hop | h_12 hop => exact ⟨rfl, encodeFA_of_op hop⟩
  case h_4 hop | h_5 hop | h_7 hop | h_8 hop | h_13 hop => exact ⟨rfl, encodeFXK_of_op hop⟩

/-- Settles O9: each family's second level keeps every field of the word, in an operand or by matching on it. -/
theorem encodeOfDecode : Obligations.EncodeOfDecode := by
  unfold Obligations.EncodeOfDecode
  exact hasWord_decodeWord

/-! ### What the matched row says of the word -/

theorem mnemonic_decodeLowNibbleZero_congr {w w' : Word} (hn : nOf w = nOf w') {i : Reg → Reg → Instr}
    (hi : ∀ x y x' y', mnemonic (i x y) = mnemonic (i x' y')) :
    mnemonic (decodeLowNibbleZero w i) = mnemonic (decodeLowNibbleZero w' i) := by
  unfold decodeLowNibbleZero
  rw [hn]
  split_ifs
  · exact hi _ _ _ _
  · rfl

theorem mnemonic_decodeFamily8_congr {w w' : Word} (hn : nOf w = nOf w') :
    mnemonic (decodeFamily8 w) = mnemonic (decodeFamily8 w') := by
  unfold decodeFamily8
  rw [hn]
  split <;> rfl

theorem mnemonic_decodeFamilyE_congr {w w' : Word} (hkk : kkOf w = kkOf w') :
    mnemonic (decodeFamilyE w) = mnemonic (decodeFamilyE w') := by
  unfold decodeFamilyE
  rw [hkk]
  split <;> rfl

theorem mnemonic_decodeFamilyF_congr {w w' : Word} (hkk : kkOf w = kkOf w') :
    mnemonic (decodeFamilyF w) = mnemonic (decodeFamilyF w') := by
  unfold decodeFamilyF
  rw [hkk]
  split <;> rfl

/-- Outside family 0, the family and the sub-opcode that its second level reads name the row. -/
theorem mnemonic_decodeWord_congr {w w' : Word} (hop : opOf w = opOf w') (h0 : opOf w' ≠ 0)
    (hn : opOf w' ∈ [5, 8, 9] → nOf w = nOf w') (hkk : 0xE ≤ opOf w' → kkOf w = kkOf w') :
    mnemonic (decodeWord w) = mnemonic (decodeWord w') := by
  unfold decodeWord
  rw [hop]
  split
  case h_1 h => exact absurd h h0
  case h_6 h => exact mnemonic_decodeLowNibbleZero_congr (hn (by simp [h])) fun _ _ _ _ => rfl
  case h_9 h => exact mnemonic_decodeFamily8_congr (hn (by simp [h]))
  case h_10 h => exact mnemonic_decodeLowNibbleZero_congr (hn (by simp [h])) fun _ _ _ _ => rfl
  case h_15 h => exact mnemonic_decodeFamilyE_congr (hkk (by simp [h]))
  case h_16 => exact mnemonic_decodeFamilyF_congr (hkk (nibble_eq_F (n := opOf w') (by simp_all) ▸ by decide))
  all_goals rfl

/-- Each row's pattern decodes to the row's own instruction. -/
theorem tableRows_decode : ∀ row ∈ tableRows, mnemonic (decodeWord row.pattern) = row.name := by decide

/-- Each mask looks at the whole word, or at the family and the sub-opcode that the family's second level reads. -/
theorem tableRows_masks : ∀ row ∈ tableRows, row.mask = 0xFFFF ∨
    (opOf row.mask = 0xF ∧ opOf row.pattern ≠ 0 ∧ (opOf row.pattern ∈ [5, 8, 9] → nOf row.mask = 0xF) ∧
      (0xE ≤ opOf row.pattern → kkOf row.mask = 0xFF)) := by decide

theorem mnemonic_of_matchesWord {row : TableRow} (hrow : row ∈ tableRows) {w : Word} (h : row.matchesWord w = true) :
    mnemonic (decodeWord w) = row.name := by
  rw [← tableRows_decode row hrow]
  have hw : w &&& row.mask = row.pattern := beq_iff_eq.mp h
  have hop : opOf w &&& opOf row.mask = opOf row.pattern := BitVec.extractLsb'_and.symm.trans (congrArg opOf hw)
  have hn : nOf w &&& nOf row.mask = nOf row.pattern := BitVec.extractLsb'_and.symm.trans (congrArg nOf hw)
  have hkk : kkOf w &&& kkOf row.mask = kkOf row.pattern := BitVec.extractLsb'_and.symm.trans (congrArg kkOf hw)
  obtain hfull | ⟨mop, h0, mn, mkk⟩ := tableRows_masks row hrow
  · rw [hfull] at hw
    rw [← hw]
    exact congrArg (fun v => mnemonic (decodeWord v)) BitVec.and_allOnes.symm
  · rw [mop] at hop
    refine mnemonic_decodeWord_congr (BitVec.and_allOnes.symm.trans hop) h0 (fun h5 => ?_) fun hE => ?_
    · rw [mn h5] at hn
      exact BitVec.and_allOnes.symm.trans hn
    · rw [mkk hE] at hkk
      exact BitVec.and_allOnes.symm.trans hkk

/-! ### The row of an instruction -/

/-- The bits of its word that an instruction's row fixes. -/
def rowMask : Instr → Word
  | .cls | .ret => 0xFFFF
  | .seVxVy _ _ | .sneVxVy _ _ | .ldVxVy _ _ | .orVxVy _ _ | .andVxVy _ _ | .xorVxVy _ _ | .addVxVy _ _ | .subVxVy _ _
  | .shrVx _ _ | .subnVxVy _ _ | .shlVx _ _ => 0xF00F
  | .skpVx _ | .sknpVx _ | .ldVxDt _ | .ldVxK _ | .ldDtVx _ | .ldStVx _ | .addIVx _ | .ldFVx _ | .ldBVx _ | .ldMemVx _
  | .ldVxMem _ => 0xF0FF
  | .noop _ => 0x0000
  | _ => 0xF000

/-- The row of spec/opcode_table.json for an instruction. -/
def rowOf (i : Instr) : TableRow := ⟨rowMask i, encode i &&& rowMask i, mnemonic i⟩

theorem rowOf_matchesWord (i : Instr) : (rowOf i).matchesWord (encode i) = true := by
  simp [rowOf, TableRow.matchesWord]

theorem nibble_and_ones (n : Nibble) : n &&& 0xF#4 = n := BitVec.and_allOnes

theorem byte_and_ones (b : Byte) : b &&& 0xFF#8 = b := BitVec.and_allOnes

theorem encodeFA_and (op : Nibble) (nnn : Addr) : encodeFA op nnn &&& 0xF000 = op ++ 0#12 := by
  show (op ++ nnn) &&& (0xF#4 ++ 0x000#12) = _
  rw [BitVec.and_append, BitVec.and_zero, nibble_and_ones]

theorem encodeFXK_and_F000 (op : Nibble) (x : Reg) (kk : Byte) :
    encodeFXK op x kk &&& 0xF000 = op ++ 0#4 ++ 0#8 := by
  show (op ++ regBits x ++ kk) &&& (0xF#4 ++ 0x0#4 ++ 0x00#8) = _
  rw [BitVec.and_append, BitVec.and_append, BitVec.and_zero, BitVec.and_zero, nibble_and_ones]

theorem encodeFXK_and_F0FF (op : Nibble) (x : Reg) (kk : Byte) :
    encodeFXK op x kk &&& 0xF0FF = op ++ 0#4 ++ kk := by
  show (op ++ regBits x ++ kk) &&& (0xF#4 ++ 0x0#4 ++ 0xFF#8) = _
  rw [BitVec.and_append, BitVec.and_append, BitVec.and_zero, nibble_and_ones, byte_and_ones]

theorem encodeFXYN_and_F000 (op : Nibble) (x y : Reg) (n : Nibble) :
    encodeFXYN op x y n &&& 0xF000 = op ++ 0#4 ++ 0#4 ++ 0#4 := by
  show (op ++ regBits x ++ regBits y ++ n : Word) &&& (0xF#4 ++ 0x0#4 ++ 0x0#4 ++ 0x0#4 : Word) = _
  rw [BitVec.and_append, BitVec.and_append, BitVec.and_append, BitVec.and_zero, BitVec.and_zero, BitVec.and_zero,
    nibble_and_ones]

theorem encodeFXYN_and_F00F (op : Nibble) (x y : Reg) (n : Nibble) :
    encodeFXYN op x y n &&& 0xF00F = op ++ 0#4 ++ 0#4 ++ n := by
  show (op ++ regBits x ++ regBits y ++ n : Word) &&& (0xF#4 ++ 0x0#4 ++ 0x0#4 ++ 0xF#4 : Word) = _
  rw [BitVec.and_append, BitVec.and_append, BitVec.and_append, BitVec.and_zero, BitVec.and_zero, nibble_and_ones,
    nibble_and_ones]

/-- The row of SYS, the one of precedence 2 (R76, R90). -/
def sysRow : TableRow := ⟨0xF000, 0x0000, "SYS_nnn"⟩

/-- The catch-all row, of precedence 3 (R77). -/
def noopRow : TableRow := ⟨0x0000, 0x0000, "(no-op)"⟩

theorem rowOf_sysNnn (nnn : Addr) : rowOf (.sysNnn nnn) = sysRow :=
  congrArg (fun p => (⟨0xF000, p, "SYS_nnn"⟩ : TableRow)) (encodeFA_and 0x0 nnn)

/-- SYS and the no-ops have the last two rows, and every other instruction one of precedence 1. -/
theorem rowOf_mem (i : Instr) : rowOf i ∈ tableRows ∨ (∃ nnn, i = .sysNnn nnn) ∨ ∃ w, i = .noop w := by
  cases i with
  | sysNnn nnn => exact .inr (.inl ⟨nnn, rfl⟩)
  | noop w => exact .inr (.inr ⟨w, rfl⟩)
  | _ =>
    left
    simp only [rowOf, rowMask, encode, encodeFA_and, encodeFXK_and_F000, encodeFXK_and_F0FF, encodeFXYN_and_F000,
      encodeFXYN_and_F00F, mnemonic]
    decide

/-- Two rows of precedence 1 that one word matches agree where both masks look, and only equal rows do. -/
theorem tableRows_disjoint : ∀ row ∈ tableRows, ∀ row' ∈ tableRows,
    row.pattern &&& row'.mask = row'.pattern &&& row.mask → row = row' := by decide

theorem row_eq_of_matchesWord {row row' : TableRow} (hrow : row ∈ tableRows) (hrow' : row' ∈ tableRows) {w : Word}
    (h : row.matchesWord w = true) (h' : row'.matchesWord w = true) : row = row' := by
  refine tableRows_disjoint row hrow row' hrow' ?_
  rw [← beq_iff_eq.mp h, ← beq_iff_eq.mp h', BitVec.and_assoc, BitVec.and_assoc, BitVec.and_comm row.mask]

theorem decodeFamily0_ne_noop (w v : Word) : decodeFamily0 w ≠ .noop v := by
  unfold decodeFamily0
  split_ifs <;> simp

/-- A word that SYS's row matches is of family 0, which holds no no-op. -/
theorem sysRow_not_matches_noop {w v : Word} (h : decodeWord w = .noop v) : ¬sysRow.matchesWord w = true := by
  intro hmatch
  have hop : opOf w &&& 0xF#4 = 0 := BitVec.extractLsb'_and.symm.trans (congrArg opOf (beq_iff_eq.mp hmatch))
  rw [nibble_and_ones] at hop
  exact decodeFamily0_ne_noop w v ((decodeWord_family0 hop).symm.trans h)

theorem firstRow_name (w : Word) :
    ((tableRows ++ tableLastRows).find? (fun row => row.matchesWord w)).map (fun row => row.name) =
      some (mnemonic (decodeWord w)) := by
  have hmatch : (rowOf (decodeWord w)).matchesWord w = true := by
    have h := rowOf_matchesWord (decodeWord w)
    rwa [(hasWord_decodeWord w).2] at h
  rw [List.find?_append]
  cases hfind : tableRows.find? (fun row => row.matchesWord w) with
  | some row =>
    have hrow : row.matchesWord w = true := by simpa using List.find?_some hfind
    exact congrArg some (mnemonic_of_matchesWord (List.mem_of_find?_eq_some hfind) hrow).symm
  | none =>
    have hlast : tableLastRows = [sysRow, noopRow] := rfl
    rw [Option.none_or, hlast]
    obtain hmem | ⟨nnn, hi⟩ | ⟨v, hi⟩ := rowOf_mem (decodeWord w)
    · exact absurd hmatch (List.find?_eq_none.mp hfind _ hmem)
    · rw [hi, rowOf_sysNnn] at hmatch
      rw [List.find?_cons_of_pos (p := fun row => TableRow.matchesWord row w) hmatch, hi]
      rfl
    · rw [List.find?_cons_of_neg (p := fun row => TableRow.matchesWord row w) (sysRow_not_matches_noop hi), hi]
      simp [noopRow, TableRow.matchesWord, mnemonic]

/-- Settles O10: the decoded instruction's row is the first that matches, and two patterns that differ under both masks have no
word in common. -/
theorem decodeAgreesWithTable : Obligations.DecodeAgreesWithTable := by
  unfold Obligations.DecodeAgreesWithTable
  exact fun w => ⟨firstRow_name w, fun _ hrow _ hrow' => row_eq_of_matchesWord hrow hrow'⟩

/-- Settles O7: the decoder evaluates on each word. -/
theorem sampleWordsDecode : Obligations.SampleWordsDecode := by
  unfold Obligations.SampleWordsDecode
  decide

end Sys2Proof.Machine
end

section
/-! SUPPORT. What exec answers, said once for all instructions: where a condition of FaultsWith holds, the state with that fault
taken (spec/60_exceptions.md R181), and where none does, the completed instruction, which writes the parts and registers listed
here and no other (spec/10_state.md). -/

namespace Sys2Proof.Machine

/-! ### Building a frame from the writes of an instruction -/

theorem Frame.setStack {parts : List Part} {regs : List Reg} {s t : State} (h : Frame parts regs s t)
    (hp : .stack ∈ parts) (sp : Nibble) (stack : Vector Word 16) :
    Frame parts regs s { t with sp := sp, stack := stack } := by
  obtain ⟨hv, hi, -, hrest⟩ := h
  exact ⟨hv, hi, fun hn => absurd hp hn, hrest⟩

theorem Frame.setScreen {parts : List Part} {regs : List Reg} {s t : State} (h : Frame parts regs s t)
    (hp : .screen ∈ parts) (hd : .dirty ∈ parts) (fb : FrameBuffer) (d : Bool) :
    Frame parts regs s { t with fb := fb, dirty := d } :=
  (h.setFb hp fb).setDirty hd d

theorem Frame.setMem {parts : List Part} {regs : List Reg} {s t : State} (h : Frame parts regs s t)
    (hp : .memory ∈ parts) (m : Memory) : Frame parts regs s { t with mem := m } := by
  obtain ⟨hv, hi, hstack, hdt, hst, hfb, hdirty, hfault, -, hrest⟩ := h
  exact ⟨hv, hi, hstack, hdt, hst, hfb, hdirty, hfault, fun hn => absurd hp hn, hrest⟩

theorem Frame.setDraws {parts : List Part} {regs : List Reg} {s t : State} (h : Frame parts regs s t)
    (hp : .draws ∈ parts) (n : Nat) : Frame parts regs s { t with draws := n } := by
  obtain ⟨hv, hi, hstack, hdt, hst, hfb, hdirty, hfault, hmem, hkeys, -, hrest⟩ := h
  exact ⟨hv, hi, hstack, hdt, hst, hfb, hdirty, hfault, hmem, hkeys, fun hn => absurd hp hn, hrest⟩

theorem Frame.loadRegs {parts : List Part} {regs : List Reg} {s t : State} (h : Frame parts regs s t) {x : Reg}
    (hx : ∀ r ≤ x, r ∈ regs) (a : Nat) : Frame parts regs s (t.loadRegs x a) := by
  obtain ⟨hv, hrest⟩ := h
  refine ⟨fun r hr => ?_, by simpa using hrest⟩
  rw [loadRegs_read, if_neg (mt (hx r) hr), hv r hr]

theorem Frame.mono {parts parts' : List Part} {regs regs' : List Reg} {s t : State} (h : Frame parts regs s t)
    (hparts : parts ⊆ parts') (hregs : regs ⊆ regs') : Frame parts' regs' s t := by
  have out : ∀ {p}, p ∉ parts' → p ∉ parts := fun hn hp => hn (hparts hp)
  obtain ⟨hv, hi, hstack, hdt, hst, hfb, hdirty, hfault, hmem, hkeys, hdraws, hsched, hload⟩ := h
  exact ⟨fun r hr => hv r fun hr' => hr (hregs hr'), fun hn => hi (out hn), fun hn => hstack (out hn),
    fun hn => hdt (out hn), fun hn => hst (out hn), fun hn => hfb (out hn), fun hn => hdirty (out hn),
    fun hn => hfault (out hn), fun hn => hmem (out hn), fun hn => hkeys (out hn), fun hn => hdraws (out hn),
    fun hn => hsched (out hn), fun hn => hload (out hn)⟩

/-! ### The completed instruction -/

/-- The next state of an instruction that does not fault. -/
def completed : Instr → State → State
  | .sysNnn _, s | .noop _, s => handlerEntry s
  | .cls, s => { handlerEntry s with fb := FrameBuffer.blank, dirty := true }
  | .ret, s => (handlerEntry s).pop.setPc s.stackTop
  | .jpNnn nnn, s => (handlerEntry s).setPc (addrOperand nnn)
  | .callNnn nnn, s => ((handlerEntry s).push (handlerEntry s).pc).setPc (addrOperand nnn)
  | .seVxKk x kk, s => (handlerEntry s).skipIf (s.v[x] == kk)
  | .sneVxKk x kk, s => (handlerEntry s).skipIf (s.v[x] != kk)
  | .seVxVy x y, s => (handlerEntry s).skipIf (s.v[x] == s.v[y])
  | .sneVxVy x y, s => (handlerEntry s).skipIf (s.v[x] != s.v[y])
  | .jpV0Nnn nnn, s => (handlerEntry s).setPc (addrOperand nnn + wordOfByte s.v[0])
  | .ldVxKk x kk, s => (handlerEntry s).setV x kk
  | .addVxKk x kk, s => (handlerEntry s).setV x (s.v[x] + kk)
  | .ldVxVy x y, s => (handlerEntry s).setV x s.v[y]
  | .orVxVy x y, s => (handlerEntry s).setV x (s.v[x] ||| s.v[y])
  | .andVxVy x y, s => (handlerEntry s).setV x (s.v[x] &&& s.v[y])
  | .xorVxVy x y, s => (handlerEntry s).setV x (s.v[x] ^^^ s.v[y])
  | .addVxVy x y, s => ((handlerEntry s).setV x (s.v[x] + s.v[y])).setFlag (carryFlag s.v[x] s.v[y])
  | .subVxVy x y, s => ((handlerEntry s).setV x (s.v[x] - s.v[y])).setFlag (greaterFlag s.v[x] s.v[y])
  | .shrVx x _, s => ((handlerEntry s).setV x (s.v[x] >>> 1)).setFlag (shiftRightFlag s.v[x])
  | .subnVxVy x y, s => ((handlerEntry s).setV x (s.v[y] - s.v[x])).setFlag (greaterFlag s.v[y] s.v[x])
  | .shlVx x _, s => ((handlerEntry s).setV x (s.v[x] <<< 1)).setFlag (shiftLeftFlag s.v[x])
  | .ldINnn nnn, s => { handlerEntry s with i := addrOperand nnn }
  | .rndVxKk x kk, s => { handlerEntry s with draws := s.draws + 1 }.setV x (Config.rand s.draws &&& kk)
  | .drwVxVyN x y n, s =>
    let drawn := s.fb.drawSprite (s.mem.readBytes s.i.toNat n.toNat) s.v[x].toNat s.v[y].toNat
    { handlerEntry s with fb := drawn.1, dirty := true }.setFlag drawn.2
  | .skpVx x, s => (handlerEntry s).skipIf (keyPressed s.keys s.v[x])
  | .sknpVx x, s => (handlerEntry s).skipIf (!keyPressed s.keys s.v[x])
  | .ldVxDt x, s => (handlerEntry s).setV x s.dt
  | .ldVxK x, s =>
    (highestKey s.keys).elim { handlerEntry s with pc := s.pc, runState := .waiting } ((handlerEntry s).setV x)
  | .ldDtVx x, s => { handlerEntry s with dt := s.v[x] }
  | .ldStVx x, s => { handlerEntry s with st := s.v[x] }
  | .addIVx x, s => { handlerEntry s with i := s.i + wordOfByte s.v[x] }
  | .ldFVx x, s => { handlerEntry s with i := glyphAddress s.v[x] }
  | .ldBVx x, s => { handlerEntry s with mem := s.mem.writeBytes s.i.toNat (bcdDigits s.v[x]) }
  | .ldMemVx x, s => { handlerEntry s with mem := s.mem.writeBytes s.i.toNat (s.regsUpTo x) }
  | .ldVxMem x, s => (handlerEntry s).loadRegs x s.i.toNat

theorem exec_completes {i : Instr} {s : State} (h : ∀ c, ¬FaultsWith i s c) : exec i s = .next (completed i s) := by
  cases i with
  | callNnn nnn => exact if_neg fun hsp => h _ (.inl ⟨nnn, rfl, hsp, rfl⟩)
  | ret => exact if_neg fun hsp => h _ (.inr (.inl ⟨rfl, hsp, rfl⟩))
  | drwVxVyN x y n =>
    exact if_pos ((rangeOk_iff_not_beyond _ _).mpr fun hb => h _ (.inr (.inr (.inl ⟨x, y, n, rfl, hb, rfl⟩))))
  | ldBVx x =>
    exact if_pos ((rangeOk_iff_not_beyond _ _).mpr fun hb => h _ (.inr (.inr (.inr (.inl ⟨x, rfl, hb, rfl⟩)))))
  | ldMemVx x =>
    exact if_pos ((rangeOk_iff_not_beyond _ _).mpr fun hb =>
      h _ (.inr (.inr (.inr (.inr (.inl ⟨x, .inl rfl, hb, rfl⟩))))))
  | ldVxMem x =>
    exact if_pos ((rangeOk_iff_not_beyond _ _).mpr fun hb =>
      h _ (.inr (.inr (.inr (.inr (.inl ⟨x, .inr rfl, hb, rfl⟩))))))
  | skpVx x =>
    exact if_neg fun hb => h _ (.inr (.inr (.inr (.inr (.inr ⟨x, .inl rfl, (keyIndexBad_iff _).mp hb, rfl⟩)))))
  | sknpVx x =>
    exact if_neg fun hb => h _ (.inr (.inr (.inr (.inr (.inr ⟨x, .inr rfl, (keyIndexBad_iff _).mp hb, rfl⟩)))))
  | ldVxK x =>
    simp only [exec, execLdVxK, completed]
    cases highestKey s.keys <;> rfl
  | _ => rfl

theorem exec_faults {i : Instr} {s : State} {c : FaultCode} (h : FaultsWith i s c) :
    exec i s = .next (takeFault c (encode i) s) := by
  have range : ∀ {a n}, BeyondMemory a n → ¬rangeOk a n = true := fun hb hok => (rangeOk_iff_not_beyond _ _).mp hok hb
  obtain ⟨nnn, rfl, hsp, rfl⟩ | ⟨rfl, hsp, rfl⟩ | ⟨x, y, n, rfl, hb, rfl⟩ | ⟨x, rfl, hb, rfl⟩ | ⟨x, rfl | rfl, hb, rfl⟩ |
    ⟨x, rfl | rfl, hb, rfl⟩ := h
  · exact if_pos hsp
  · exact if_pos hsp
  · exact if_neg (range hb)
  · exact if_neg (range hb)
  · exact if_neg (range hb)
  · exact if_neg (range hb)
  · exact if_pos ((keyIndexBad_iff _).mpr hb)
  · exact if_pos ((keyIndexBad_iff _).mpr hb)

/-- Every answer of exec is one of these two next states. -/
theorem exec_cases (i : Instr) (s : State) :
    (∃ c, FaultsWith i s c ∧ exec i s = .next (takeFault c (encode i) s)) ∨
    ((∀ c, ¬FaultsWith i s c) ∧ exec i s = .next (completed i s)) := by
  by_cases h : ∃ c, FaultsWith i s c
  · obtain ⟨c, hc⟩ := h
    exact .inl ⟨c, hc, exec_faults hc⟩
  · rw [not_exists] at h
    exact .inr ⟨h, exec_completes h⟩

/-- So a property of the next state needs a proof for a fault taken and one for the completed instruction. -/
theorem exec_next_cases {i : Instr} {s t : State} (h : exec i s = .next t) :
    (∃ c, FaultsWith i s c ∧ t = takeFault c (encode i) s) ∨ ((∀ c, ¬FaultsWith i s c) ∧ t = completed i s) := by
  obtain ⟨c, hc, he⟩ | ⟨hc, he⟩ := exec_cases i s
  · exact .inl ⟨c, hc, Host.Outcome.next.inj (h.symm.trans he)⟩
  · exact .inr ⟨hc, Host.Outcome.next.inj (h.symm.trans he)⟩

/-! ### What a completed instruction writes -/

/-- The parts of the state that an instruction writes (R23, R27 to R31, R54). -/
def writtenParts : Instr → List Part
  | .cls | .drwVxVyN _ _ _ => [.screen, .dirty]
  | .ret | .callNnn _ => [.stack]
  | .ldINnn _ | .addIVx _ | .ldFVx _ => [.index]
  | .rndVxKk _ _ => [.draws]
  | .ldDtVx _ => [.delayTimer]
  | .ldStVx _ => [.soundTimer]
  | .ldBVx _ | .ldMemVx _ => [.memory]
  | _ => []

/-- The registers that an instruction writes (R20, R21). -/
def writtenRegs : Instr → List Reg
  | .ldVxKk x _ | .addVxKk x _ | .ldVxVy x _ | .orVxVy x _ | .andVxVy x _ | .xorVxVy x _ | .rndVxKk x _ | .ldVxDt x
  | .ldVxK x => [x]
  | .addVxVy x _ | .subVxVy x _ | .shrVx x _ | .subnVxVy x _ | .shlVx x _ => [x, 15]
  | .drwVxVyN _ _ _ => [15]
  | .ldVxMem x => (List.finRange 16).filter (· ≤ x)
  | _ => []

/-- No instruction writes the fault record but by faulting (R180). -/
theorem faultRecord_not_written (i : Instr) : .faultRecord ∉ writtenParts i := by
  unfold writtenParts
  split <;> simp

theorem keys_not_written (i : Instr) : .keys ∉ writtenParts i := by
  unfold writtenParts
  split <;> simp

theorem schedule_not_written (i : Instr) : .schedule ∉ writtenParts i := by
  unfold writtenParts
  split <;> simp

theorem frame_completed (i : Instr) (s : State) : Frame (writtenParts i) (writtenRegs i) s (completed i s) := by
  have entry : ∀ parts regs, Frame parts regs s (handlerEntry s) := fun _ _ => frame_handlerEntry _ _ s
  cases i with
  | sysNnn | noop => exact entry _ _
  | cls => exact (entry [.screen, .dirty] []).setScreen (by simp) (by simp) _ _
  | ret | callNnn => exact (entry _ _).setStack (List.mem_singleton_self _) _ _
  | jpNnn | jpV0Nnn => exact (entry _ _).setPc _
  | seVxKk | sneVxKk | seVxVy | sneVxVy | skpVx | sknpVx => exact (entry _ _).skipIf _
  | ldVxKk | addVxKk | ldVxVy | orVxVy | andVxVy | xorVxVy | ldVxDt => exact frame_setV_handlerEntry s _ _
  | addVxVy | subVxVy | shrVx | subnVxVy | shlVx => exact frame_setV_setFlag s _ _ _
  | ldINnn | addIVx | ldFVx => exact (entry _ _).setI (List.mem_singleton_self _) _
  | rndVxKk => exact ((entry _ _).setDraws (List.mem_singleton_self _) _).setV (List.mem_singleton_self _) _
  | drwVxVyN =>
    exact ((entry [.screen, .dirty] [15]).setScreen (by simp) (by simp) _ _).setFlag (by simp) _
  | ldVxK x =>
    show Frame [] [x] s ((highestKey s.keys).elim _ _)
    cases highestKey s.keys with
    | none => exact entry _ _
    | some k => exact frame_setV_handlerEntry s x k
  | ldDtVx => exact (entry _ _).setDt (List.mem_singleton_self _) _
  | ldStVx => exact (entry _ _).setSt (List.mem_singleton_self _) _
  | ldBVx | ldMemVx => exact (entry _ _).setMem (List.mem_singleton_self _) _
  | ldVxMem x =>
    have hregs : ∀ r ≤ x, r ∈ writtenRegs (.ldVxMem x) := fun r hr =>
      List.mem_filter.mpr ⟨List.mem_finRange r, decide_eq_true hr⟩
    exact (entry _ _).loadRegs hregs _

theorem completed_runState_ne_faulted (i : Instr) (s : State) : (completed i s).runState ≠ .faulted := by
  cases i with
  | ldVxK x =>
    show ((highestKey s.keys).elim _ _ : State).runState ≠ _
    cases highestKey s.keys <;> simp
  | _ => simp [completed]

/-! ### The obligations on faults -/

/-- Settles O25: takeFault is the state the statement writes out. -/
theorem faultEntryIsPrecise : Obligations.FaultEntryIsPrecise := by
  unfold Obligations.FaultEntryIsPrecise
  exact fun _ _ _ h => exec_faults h

/-- Settles O26: the completed instruction is not FAULTED, and no instruction lists the fault record among the parts it
writes. -/
theorem nothingElseFaults : Obligations.NothingElseFaults := by
  unfold Obligations.NothingElseFaults
  intro i s h
  obtain ⟨-, -, -, -, -, -, -, hrecord, -⟩ := frame_completed i s
  exact ⟨_, exec_completes h, completed_runState_ne_faulted i s, hrecord (faultRecord_not_written i)⟩

end Sys2Proof.Machine
end

section
/-! SUPPORT. The instructions one by one: each next state is the completed instruction, whose writes frame_completed lists. -/

namespace Sys2Proof.Machine

/-! ### System and control flow (spec/40_system_flow.md) -/

theorem exec_ret {s : State} (h : s.sp ≠ 0) : exec .ret s = .next (completed .ret s) := if_neg h

theorem exec_callNnn (nnn : Addr) {s : State} (h : s.sp ≠ 15) :
    exec (.callNnn nnn) s = .next (completed (.callNnn nnn) s) := if_neg h

theorem stackTop_eq {s : State} {j : Fin 16} (hj : j.val = s.sp.toNat) : s.stackTop = s.stack[j] := by
  simp [State.stackTop, ← hj]

/-- Away from the ends of the stack SP moves by one, with no wrap. -/
theorem toNat_sp_pred {sp : Nibble} (h : sp ≠ 0) : (sp - 1).toNat = sp.toNat - 1 := by bv_omega

theorem toNat_sp_succ {sp : Nibble} (h : sp ≠ 15) : (sp + 1).toNat = sp.toNat + 1 := by bv_omega

/-- Settles O29: outside the two words of CLS and RET family 0 is SYS, whose step is handler entry alone. -/
theorem sysIsNoop : Obligations.SysIsNoop := by
  unfold Obligations.SysIsNoop
  intro nnn s
  refine ⟨fun hcls hret => ?_, completed (.sysNnn nnn) s, rfl, ⟨rfl, rfl⟩, frame_completed (.sysNnn nnn) s⟩
  exact decodeWord_encode (i := .sysNnn nnn) (by simpa [Instr.wellFormed, sysOk] using And.intro hcls hret)

/-- Settles O31: PC takes the entry that SP indexed, and SP alone of the stack moves. -/
theorem retPops : Obligations.RetPops := by
  unfold Obligations.RetPops
  refine ⟨rfl, fun s j hj hsp => ?_⟩
  exact ⟨_, exec_ret hsp, stackTop_eq hj, toNat_sp_pred hsp, rfl, rfl, frame_completed .ret s⟩

/-- Settles O33: the entry after the one SP indexed takes a + 2, and SP moves on to it. -/
theorem callPushes : Obligations.CallPushes := by
  unfold Obligations.CallPushes
  refine fun nnn s => ⟨decodeWord_encode (i := .callNnn nnn) rfl, fun hsp => ?_⟩
  refine ⟨_, exec_callNnn nnn hsp, toNat_addrOperand nnn, rfl, toNat_sp_succ hsp, fun j hj => ?_, fun j hj => ?_,
    frame_completed (.callNnn nnn) s⟩
  · exact (push_read (handlerEntry s) _ hsp j).trans (if_pos hj)
  · exact (push_read (handlerEntry s) _ hsp j).trans (if_neg hj)

/-- Settles O36: the 16-bit sum of a 12-bit and an 8-bit number does not wrap. -/
theorem jpV0Jumps : Obligations.JpV0Jumps := by
  unfold Obligations.JpV0Jumps
  exact fun nnn s => ⟨decodeWord_encode (i := .jpV0Nnn nnn) rfl, completed (.jpV0Nnn nnn) s, rfl,
    toNat_jumpSum nnn s.v[0], rfl, frame_completed (.jpV0Nnn nnn) s⟩

/-! ### The ALU family (spec/41_load_alu.md) -/

/-- Settles O38: each result is the one write of V[x]. -/
theorem copyAndLogic : Obligations.CopyAndLogic := by
  unfold Obligations.CopyAndLogic
  intro x y s
  refine ⟨⟨completed (.ldVxVy x y) s, rfl, setV_read_self _ _ _, ⟨rfl, rfl⟩, frame_completed (.ldVxVy x y) s⟩,
    ⟨completed (.orVxVy x y) s, rfl, fun k => ?_, ⟨rfl, rfl⟩, frame_completed (.orVxVy x y) s⟩,
    ⟨completed (.andVxVy x y) s, rfl, fun k => ?_, ⟨rfl, rfl⟩, frame_completed (.andVxVy x y) s⟩,
    ⟨completed (.xorVxVy x y) s, rfl, fun k => ?_, ⟨rfl, rfl⟩, frame_completed (.xorVxVy x y) s⟩⟩
  · rw [completed, setV_read_self, BitVec.getLsbD_or]
  · rw [completed, setV_read_self, BitVec.getLsbD_and]
  · rw [completed, setV_read_self, BitVec.getLsbD_xor]

/-- Settles O41: as for SUB, with the operands exchanged. -/
theorem subnSetsGreater : Obligations.SubnSetsGreater := by
  unfold Obligations.SubnSetsGreater
  intro x y s
  obtain ⟨hgreater, hnot⟩ := flagIs_setFlag (greaterFlag_iff s.v[y] s.v[x]) ((handlerEntry s).setV x (s.v[y] - s.v[x]))
  refine ⟨completed (.subnVxVy x y) s, rfl, fun hx => ?_, hgreater, fun h => hnot (Nat.not_lt.mpr h), ⟨rfl, rfl⟩,
    frame_completed (.subnVxVy x y) s⟩
  rw [completed, setV_setFlag_read_result _ hx]
  exact toNat_byteSub _ _

theorem toNat_shiftRight_one (b : Byte) : (b >>> 1).toNat = b.toNat / 2 := by
  rw [BitVec.toNat_ushiftRight, Nat.shiftRight_eq_div_pow]

theorem toNat_shiftLeft_one (b : Byte) : (b <<< 1).toNat = b.toNat * 2 % 256 := by
  rw [BitVec.toNat_shiftLeft, Nat.shiftLeft_eq]

/-- Settles O42: the shifted value stands in V[x] unless the flag's write takes its place, and VF holds the old bit. -/
theorem shiftsMoveBitToVf : Obligations.ShiftsMoveBitToVf := by
  unfold Obligations.ShiftsMoveBitToVf
  intro x y s
  obtain ⟨hright, hleft⟩ := toNat_shiftFlags s.v[x]
  refine ⟨⟨completed (.shrVx x y) s, rfl, fun hx => ?_, ?_, ⟨rfl, rfl⟩, frame_completed (.shrVx x y) s⟩,
    ⟨completed (.shlVx x y) s, rfl, fun hx => ?_, ?_, ⟨rfl, rfl⟩, frame_completed (.shlVx x y) s⟩⟩
  · rw [completed, setV_setFlag_read_result _ hx, toNat_shiftRight_one]
  · rw [completed, setFlag_read, if_pos rfl, hright]
  · rw [completed, setV_setFlag_read_result _ hx, toNat_shiftLeft_one]
  · rw [completed, setFlag_read, if_pos rfl, hleft]

/-! ### The random byte and the index (spec/42_index_random_draw.md, spec/43_keys_misc.md) -/

/-- Settles O45: V[x] takes the draw and the mask, and the counter of draws moves on. -/
theorem rndMasksDraw : Obligations.RndMasksDraw := by
  unfold Obligations.RndMasksDraw
  intro x kk s
  refine ⟨completed (.rndVxKk x kk) s, rfl, fun k => ?_, rfl, ⟨rfl, rfl⟩, frame_completed (.rndVxKk x kk) s⟩
  rw [completed, setV_read_self, BitVec.getLsbD_and]

/-- Settles O52: the 16-bit sum with the zero-extended byte wraps at 65536. -/
theorem addIWraps : Obligations.AddIWraps := by
  unfold Obligations.AddIWraps
  intro x s
  refine ⟨completed (.addIVx x) s, rfl, ?_, ⟨rfl, rfl⟩, frame_completed (.addIVx x) s⟩
  rw [completed, BitVec.toNat_add, toNat_wordOfByte]

/-! ### Keys (spec/43_keys_misc.md) -/

theorem exec_skpVx {x : Reg} {s : State} (h : s.v[x].toNat ≤ 15) : exec (.skpVx x) s = .next (completed (.skpVx x) s) :=
  if_neg fun hbad => Nat.not_lt.mpr h ((keyIndexBad_iff _).mp hbad)

theorem exec_sknpVx {x : Reg} {s : State} (h : s.v[x].toNat ≤ 15) : exec (.sknpVx x) s = .next (completed (.sknpVx x) s) :=
  if_neg fun hbad => Nat.not_lt.mpr h ((keyIndexBad_iff _).mp hbad)

/-- Settles O49: the two skips test the one bit of KEYS that V[x] names. -/
theorem keySkips : Obligations.KeySkips := by
  unfold Obligations.KeySkips
  intro x s h
  exact ⟨⟨_, exec_skpVx h, skipped_skipIf .rfl s, frame_completed (.skpVx x) s⟩,
    ⟨_, exec_sknpVx h, skipped_skipIf (iff_of_eq (Bool.not_eq_true' _)) s, frame_completed (.sknpVx x) s⟩⟩

/-- Settles O50: highestKey finds a pressed key above which none is pressed, and none exactly when KEYS is 0. -/
theorem keyWaitTakesHighestOrStays : Obligations.KeyWaitTakesHighestOrStays := by
  unfold Obligations.KeyWaitTakesHighestOrStays
  refine fun x s => ⟨fun hkeys => ?_, fun hkeys => ?_⟩
  · obtain ⟨k, hk, hexec⟩ := exec_ldVxK_pressed x hkeys
    refine ⟨_, hexec, ?_⟩
    rw [setV_read_self]
    obtain ⟨hle, hset, hmax⟩ := highestKey_some s.keys k hk
    exact ⟨hle, hset, hmax, advanced_setV s x k, frame_setV_handlerEntry s x k⟩
  · exact ⟨_, exec_ldVxK_unpressed x hkeys, rfl, rfl, frame_handlerEntry _ _ s⟩

/-! ### Block transfers (spec/43_keys_misc.md section 4) -/

theorem exec_ldBVx (x : Reg) {s : State} (h : s.i.toNat + 2 ≤ 0xFFF) :
    exec (.ldBVx x) s = .next (completed (.ldBVx x) s) := if_pos ((rangeOk_iff _ _).mpr (.inr h))

theorem exec_ldMemVx {x : Reg} {s : State} (h : s.i.toNat + x.val ≤ 0xFFF) :
    exec (.ldMemVx x) s = .next (completed (.ldMemVx x) s) := if_pos ((rangeOk_iff _ _).mpr (.inr h))

theorem exec_ldVxMem {x : Reg} {s : State} (h : s.i.toNat + x.val ≤ 0xFFF) :
    exec (.ldVxMem x) s = .next (completed (.ldVxMem x) s) := if_pos ((rangeOk_iff _ _).mpr (.inr h))

/-- Byte r of a block written at a. -/
theorem Memory.read_writeBytes_at (bs : List Byte) (m : Memory) (a r : Nat) (hr : r < bs.length) :
    (m.writeBytes a bs).read (a + r) = bs[r] := by
  rw [Memory.read_writeBytes, dif_pos ⟨by omega, by omega⟩]
  simp

/-- Settles O54: the three digits are the block written at I. -/
theorem ldBStoresDigits : Obligations.LdBStoresDigits := by
  unfold Obligations.LdBStoresDigits
  intro x s h
  have hv := s.v[x].isLt
  have digit : ∀ r, (hr : r < 3) → (completed (.ldBVx x) s).mem.read (s.i.toNat + r) = (bcdDigits s.v[x])[r] :=
    fun r hr => Memory.read_writeBytes_at (bcdDigits s.v[x]) s.mem s.i.toNat r hr
  refine ⟨_, exec_ldBVx x h, ?_, ?_, ?_, fun a ha => ?_, ⟨rfl, rfl⟩, frame_completed (.ldBVx x) s⟩
  · exact (congrArg _ (digit 0 (by omega))).trans (Nat.mod_eq_of_lt (by omega))
  · exact (congrArg _ (digit 1 (by omega))).trans (Nat.mod_eq_of_lt (by omega))
  · exact (congrArg _ (digit 2 (by omega))).trans (Nat.mod_eq_of_lt (by omega))
  · exact Memory.read_writeBytes_outside _ s.mem _ a (by rw [length_bcdDigits]; omega)

/-- Settles O55: the registers up to x are the block written at I. -/
theorem blockStore : Obligations.BlockStore := by
  unfold Obligations.BlockStore
  intro x s h
  have hlen := length_regsUpTo s x
  refine ⟨_, exec_ldMemVx h, fun r hr => ?_, fun a ha => ?_, ⟨rfl, rfl⟩, frame_completed (.ldMemVx x) s⟩
  · have hle : r.val ≤ x.val := hr
    have hr' : r.val < (s.regsUpTo x).length := by omega
    exact (Memory.read_writeBytes_at _ s.mem _ _ hr').trans (getElem_regsUpTo s x r hr')
  · exact Memory.read_writeBytes_outside _ s.mem _ a (by omega)

/-- Settles O56: loadRegs_read says what each register reads as, and memory is among the parts that stay. -/
theorem blockLoad : Obligations.BlockLoad := by
  unfold Obligations.BlockLoad
  intro x s h
  have read := fun r => loadRegs_read (handlerEntry s) x r s.i.toNat
  refine ⟨_, exec_ldVxMem h, fun r hr => ?_, fun r hr => ?_, ⟨rfl, rfl⟩,
    (frame_completed (.ldVxMem x) s).mono (List.Subset.refl _) fun r _ => List.mem_finRange r⟩
  · exact (read r).trans (if_pos hr)
  · exact (read r).trans (if_neg (not_le.mpr hr))

end Sys2Proof.Machine
end

section
/-! SUPPORT. DRW (spec/42_index_random_draw.md R132 to R134): one draw flips the pixels the sprite covers, and a second equal one
covers the same pixels and flips them back. -/

namespace Sys2Proof.Machine

/-! ### One draw -/

theorem exec_drwVxVyN (x y : Reg) {n : Nibble} {s : State} (h : n = 0 ∨ s.i.toNat + n.toNat - 1 ≤ 0xFFF) :
    exec (.drwVxVyN x y n) s = .next (completed (.drwVxVyN x y n) s) :=
  if_pos ((rangeOk_iff _ _).mpr (h.imp_left (congrArg BitVec.toNat)))

/-- A sprite of at most 15 rows in the words of SpriteCovers: the pixels it covers flip, the others stay, and the draw reports
whether a covered pixel was set. -/
theorem drawSprite_spec (x y : Reg) (n : Nibble) (s : State) :
    (∀ py px, SpriteCovers s x y n py px → (completed (.drwVxVyN x y n) s).fb[py][px] = !s.fb[py][px]) ∧
    (∀ py px, ¬SpriteCovers s x y n py px → (completed (.drwVxVyN x y n) s).fb[py][px] = s.fb[py][px]) ∧
    ((s.fb.drawSprite (s.mem.readBytes s.i.toNat n.toNat) s.v[x].toNat s.v[y].toNat).2 = true ↔
      ∃ py px, SpriteCovers s x y n py px ∧ s.fb[py][px] = true) := by
  have hlen : (s.mem.readBytes s.i.toNat n.toNat).length < 32 := by
    have := n.isLt
    rw [Memory.length_readBytes]
    omega
  obtain ⟨hflip, hkeep, hflag⟩ := drawRows_spec _ s.v[x].toNat s.v[y].toNat hlen (s.fb, false)
  simp only [rowsCover_iff_spriteCovers, Bool.false_eq_true, false_or] at hflip hkeep hflag
  exact ⟨hflip, hkeep, hflag⟩

theorem flagIs_drw (x y : Reg) (n : Nibble) (s : State) :
    FlagIs (∃ py px, SpriteCovers s x y n py px ∧ s.fb[py][px] = true) (completed (.drwVxVyN x y n) s) := by
  obtain ⟨-, -, hflag⟩ := drawSprite_spec x y n s
  exact flagIs_setFlag hflag _

/-- A pixel that the draw turned off is a covered one that was set (R132). -/
theorem drw_turnedOff_iff (x y : Reg) (n : Nibble) (s : State) :
    (∃ (py : Fin 32) (px : Fin 64), s.fb[py][px] = true ∧ (completed (.drwVxVyN x y n) s).fb[py][px] = false) ↔
      ∃ py px, SpriteCovers s x y n py px ∧ s.fb[py][px] = true := by
  obtain ⟨hflip, hkeep, -⟩ := drawSprite_spec x y n s
  constructor
  · rintro ⟨py, px, hset, hoff⟩
    refine ⟨py, px, by_contra fun hnot => ?_, hset⟩
    rw [hkeep py px hnot, hset] at hoff
    exact Bool.noConfusion hoff
  · rintro ⟨py, px, hcovers, hset⟩
    exact ⟨py, px, hset, by rw [hflip py px hcovers, hset, Bool.not_true]⟩

theorem flagIs_drw_turnedOff (x y : Reg) (n : Nibble) (s : State) :
    FlagIs (∃ (py : Fin 32) (px : Fin 64), s.fb[py][px] = true ∧ (completed (.drwVxVyN x y n) s).fb[py][px] = false)
      (completed (.drwVxVyN x y n) s) := by
  rw [drw_turnedOff_iff]
  exact flagIs_drw x y n s

/-- Settles O46: the sprite flips what it covers, and the flag is raised where that turned a pixel off. -/
theorem drwXorsSprite : Obligations.DrwXorsSprite := by
  unfold Obligations.DrwXorsSprite
  intro x y n s h
  obtain ⟨hflip, hkeep, -⟩ := drawSprite_spec x y n s
  obtain ⟨hoff, hnone⟩ := flagIs_drw_turnedOff x y n s
  exact ⟨_, exec_drwVxVyN x y h, hflip, hkeep, hoff, hnone, rfl, ⟨rfl, rfl⟩, frame_completed (.drwVxVyN x y n) s⟩

/-! ### Two equal draws -/

/-- With x and y not VF the draw leaves what it reads, so a second one covers the same pixels. -/
theorem spriteCovers_after_drw {x y : Reg} (hx : x ≠ 15) (hy : y ≠ 15) (n : Nibble) (s : State) (py : Fin 32) (px : Fin 64) :
    SpriteCovers (completed (.drwVxVyN x y n) s) x y n py px ↔ SpriteCovers s x y n py px := by
  obtain ⟨hregs, -⟩ := frame_completed (.drwVxVyN x y n) s
  have keep : ∀ r : Reg, r ≠ 15 → (completed (.drwVxVyN x y n) s).v[r] = s.v[r] := fun r hr =>
    hregs r (by simpa [writtenRegs] using hr)
  unfold SpriteCovers
  rw [keep x hx, keep y hy]
  rfl

section
variable {x y : Reg} (hx : x ≠ 15) (hy : y ≠ 15) (n : Nibble) (s : State)
include hx hy

theorem drw_drw_fb :
    (completed (.drwVxVyN x y n) (completed (.drwVxVyN x y n) s)).fb = s.fb := by
  obtain ⟨hflip, hkeep, -⟩ := drawSprite_spec x y n s
  obtain ⟨hflip', hkeep', -⟩ := drawSprite_spec x y n (completed (.drwVxVyN x y n) s)
  simp only [spriteCovers_after_drw hx hy] at hflip' hkeep'
  refine frameBuffer_ext fun py px => ?_
  by_cases hc : SpriteCovers s x y n py px
  · rw [hflip' py px hc, hflip py px hc, Bool.not_not]
  · rw [hkeep' py px hc, hkeep py px hc]

/-- The second draw turns off the covered pixels that were clear, since those are the ones the first turned on. -/
theorem flagIs_drw_drw :
    FlagIs (∃ py px, SpriteCovers s x y n py px ∧ s.fb[py][px] = false)
      (completed (.drwVxVyN x y n) (completed (.drwVxVyN x y n) s)) := by
  obtain ⟨hflip, -⟩ := drawSprite_spec x y n s
  have h := flagIs_drw x y n (completed (.drwVxVyN x y n) s)
  simp only [spriteCovers_after_drw hx hy] at h
  have hset : ∀ py px, SpriteCovers s x y n py px ∧ (completed (.drwVxVyN x y n) s).fb[py][px] = true ↔
      SpriteCovers s x y n py px ∧ s.fb[py][px] = false := fun py px =>
    and_congr_right fun hc => by rw [hflip py px hc, Bool.not_eq_true']
  simpa only [hset] using h

end

theorem FlagIs.eq_one_iff {c : Prop} {t : State} (h : FlagIs c t) : t.v[(15 : Reg)] = 1 ↔ c := by
  obtain ⟨hone, hzero⟩ := h
  refine ⟨fun hv => by_contra fun hc => ?_, hone⟩
  rw [hzero hc] at hv
  exact absurd hv (by decide)

/-- A sprite that covers a pixel has a byte that is not 0. -/
theorem SpriteCovers.byte_ne_zero {s : State} {x y : Reg} {n : Nibble} {py : Fin 32} {px : Fin 64}
    (h : SpriteCovers s x y n py px) : ∃ r : Nat, r < n.toNat ∧ s.mem.read (s.i.toNat + r) ≠ 0 := by
  obtain ⟨r, col, hr, -, hbit, -⟩ := h
  refine ⟨r, hr, fun h0 => ?_⟩
  rw [h0] at hbit
  simp at hbit

/-- Settles O47: the second draw undoes the first, and its flag says whether a covered pixel was clear before both. -/
theorem drawTwiceRestores : Obligations.DrawTwiceRestores := by
  unfold Obligations.DrawTwiceRestores
  intro x y n s h hx hy
  obtain ⟨hone, hzero⟩ := flagIs_drw_drw hx hy n s
  refine ⟨_, _, exec_drwVxVyN x y h, exec_drwVxVyN x y h, drw_drw_fb hx hy n s, hone, fun hall => hzero ?_, ?_⟩
  · rintro ⟨py, px, hc, hclear⟩
    rw [hall py px hc] at hclear
    exact Bool.noConfusion hclear
  · rw [(flagIs_drw_drw hx hy n s).eq_one_iff]
    rintro (hclear | hblank)
    · obtain ⟨py, px, hc, hoff⟩ := hclear
      exact iff_of_true ⟨py, px, hc, hoff⟩ hc.byte_ne_zero
    · have hnone : ¬∃ r : Nat, r < n.toNat ∧ s.mem.read (s.i.toNat + r) ≠ 0 := fun ⟨r, hr, hne⟩ => hne (hblank r hr)
      exact iff_of_false (fun ⟨_, _, hc, _⟩ => hnone hc.byte_ne_zero) hnone

/-- One sprite byte with its highest bit set at the end of memory, over the one pixel of the screen that is set. -/
def setPixelUnderSprite : State :=
  { State.reset with
    i := 0xFFF, mem := [(0xFFF, 0x80)], fb := FrameBuffer.blank.set 0 (FrameBuffer.blank[0].set 0 true) }

/-- Refutes O48: the sprite has a set bit, but the first draw turns the one pixel it covers off, so the second turns it on and
VF is 0 (log 11). -/
theorem not_secondDrawCollidesIffSpriteHasSetBit : ¬Obligations.SecondDrawCollidesIffSpriteHasSetBit := by
  unfold Obligations.SecondDrawCollidesIffSpriteHasSetBit
  intro h
  have hvf := (h 0 1 1 setPixelUnderSprite _ _ (by decide) (by decide) (by decide) rfl rfl).mpr ⟨0, by decide, by decide⟩
  exact absurd hvf (by decide)

end Sys2Proof.Machine
end

section
/-! SUPPORT. The rules over all instructions: each follows from exec_next_cases, since a fault taken writes RUNSTATE and the fault
record alone and a completed instruction what writtenParts and writtenRegs list. -/

namespace Sys2Proof.Machine

/-! ### Which instruction lists a part or VF -/

theorem screen_written {i : Instr} (h : .screen ∈ writtenParts i) : i = .cls ∨ ∃ x y n, i = .drwVxVyN x y n := by
  unfold writtenParts at h
  split at h <;> simp_all

theorem dirty_written {i : Instr} (h : .dirty ∈ writtenParts i) : i = .cls ∨ ∃ x y n, i = .drwVxVyN x y n := by
  unfold writtenParts at h
  split at h <;> simp_all

theorem stack_written {i : Instr} (h : .stack ∈ writtenParts i) : i = .ret ∨ ∃ nnn, i = .callNnn nnn := by
  unfold writtenParts at h
  split at h <;> simp_all

theorem delayTimer_written {i : Instr} (h : .delayTimer ∈ writtenParts i) : ∃ x, i = .ldDtVx x := by
  unfold writtenParts at h
  split at h <;> simp_all

theorem soundTimer_written {i : Instr} (h : .soundTimer ∈ writtenParts i) : ∃ x, i = .ldStVx x := by
  unfold writtenParts at h
  split at h <;> simp_all

theorem memory_written {i : Instr} (h : .memory ∈ writtenParts i) : ∃ x, i = .ldBVx x ∨ i = .ldMemVx x := by
  unfold writtenParts at h
  split at h <;> simp_all

theorem index_written {i : Instr} (h : .index ∈ writtenParts i) :
    (∃ nnn, i = .ldINnn nnn) ∨ ∃ x, i = .addIVx x ∨ i = .ldFVx x := by
  unfold writtenParts at h
  split at h <;> simp_all

theorem vf_written {i : Instr} (h : 15 ∈ writtenRegs i) :
    (∃ x y, i = .addVxVy x y ∨ i = .subVxVy x y ∨ i = .shrVx x y ∨ i = .subnVxVy x y ∨ i = .shlVx x y) ∨
    (∃ x y n, i = .drwVxVyN x y n) ∨
    (∃ kk, i = .ldVxKk 15 kk ∨ i = .addVxKk 15 kk ∨ i = .rndVxKk 15 kk) ∨
    (∃ y, i = .ldVxVy 15 y ∨ i = .orVxVy 15 y ∨ i = .andVxVy 15 y ∨ i = .xorVxVy 15 y) ∨
    i = .ldVxDt 15 ∨ i = .ldVxK 15 ∨ i = .ldVxMem 15 := by
  cases i with
  | ldVxMem x =>
    have hx : 15 ≤ x := by simpa [writtenRegs] using h
    simp [Fin.last_le_iff.mp hx]
  | _ => simp_all [writtenRegs]

/-! ### Two finer rules -/

/-- RET moves SP and keeps every entry (R92). -/
theorem completed_stack_eq {i : Instr} (s : State) (h : ∀ nnn, i ≠ .callNnn nnn) : (completed i s).stack = s.stack := by
  obtain ⟨-, -, hstack, -⟩ := frame_completed i s
  by_cases hret : i = .ret
  · rw [hret]
    rfl
  · refine (hstack fun hw => ?_).2
    obtain rfl | ⟨nnn, rfl⟩ := stack_written hw
    · exact hret rfl
    · exact h nnn rfl

/-- The two instructions that write DIRTY set it (R31). -/
theorem completed_dirty (i : Instr) (s : State) (h : s.dirty = true) : (completed i s).dirty = true := by
  obtain ⟨-, -, -, -, -, -, hdirty, -⟩ := frame_completed i s
  by_cases hw : .dirty ∈ writtenParts i
  · obtain rfl | ⟨x, y, n, rfl⟩ := dirty_written hw
    · rfl
    · rfl
  · rw [hdirty hw, h]

/-- Settles O57: a part that differs is one that the instruction lists. -/
theorem onlyNamedInstructionsWrite : Obligations.OnlyNamedInstructionsWrite := by
  unfold Obligations.OnlyNamedInstructionsWrite
  intro i s t h
  obtain ⟨c, -, rfl⟩ | ⟨-, rfl⟩ := exec_next_cases h
  · simp
  · obtain ⟨-, hi, hstack, hdt, hst, hfb, -, -, hmem, hkeys, -⟩ := frame_completed i s
    refine ⟨fun hne => screen_written (by_contra fun hw => hne (hfb hw)), fun hne => ?_,
      fun hne => stack_written (by_contra fun hw => hne (hstack hw).1),
      fun hne => delayTimer_written (by_contra fun hw => hne (hdt hw)),
      fun hne => soundTimer_written (by_contra fun hw => hne (hst hw)),
      fun ⟨a, hne⟩ => memory_written (by_contra fun hw => hne (hmem hw a)),
      fun hne => index_written (by_contra fun hw => hne (hi hw)), completed_dirty i s, hkeys (keys_not_written i)⟩
    by_contra hcall
    exact hne (completed_stack_eq s fun nnn he => hcall ⟨nnn, he⟩)

/-- Settles O58: each flag writer's last write is VF, and a VF that differs is a register that the instruction lists. -/
theorem vfIsFlagOfSix : Obligations.VfIsFlagOfSix := by
  unfold Obligations.VfIsFlagOfSix
  refine ⟨fun x y s => ⟨⟨completed (.addVxVy x y) s, rfl, flagIs_setFlag (carryFlag_iff _ _) _⟩,
    ⟨completed (.subVxVy x y) s, rfl, flagIs_setFlag (greaterFlag_iff _ _) _⟩,
    ⟨completed (.shrVx x y) s, rfl, flagIs_setFlag .rfl _⟩,
    ⟨completed (.subnVxVy x y) s, rfl, flagIs_setFlag (greaterFlag_iff _ _) _⟩,
    ⟨completed (.shlVx x y) s, rfl, flagIs_setFlag .rfl _⟩,
    fun n h => ⟨_, exec_drwVxVyN x y h, flagIs_drw_turnedOff x y n s⟩⟩, fun i s t h hne => ?_⟩
  obtain ⟨c, -, rfl⟩ | ⟨-, rfl⟩ := exec_next_cases h
  · exact absurd rfl hne
  · obtain ⟨hregs, -⟩ := frame_completed i s
    exact vf_written (by_contra fun hw => hne (hregs 15 hw))

/-! ### Where PC goes -/

theorem skipIf_handlerEntry_pc (s : State) (c : Bool) :
    ((handlerEntry s).skipIf c).pc = s.pc + 2 ∨ ((handlerEntry s).skipIf c).pc = s.pc + 4 := by
  obtain ⟨htaken, hnot, -⟩ := skipped_skipIf (c := c) .rfl s
  exact (em (c = true)).symm.imp hnot htaken

/-- Settles O59: a fault taken leaves PC, and each completed instruction is handler entry with the one write of PC listed, if
any. -/
theorem pcGoesWhereListed : Obligations.PcGoesWhereListed := by
  unfold Obligations.PcGoesWhereListed
  intro i s t h
  obtain ⟨c, -, rfl⟩ | ⟨-, rfl⟩ := exec_next_cases h
  · exact .inr (.inr (.inr (.inr (.inr ⟨rfl, .inl rfl⟩))))
  cases i with
  | seVxKk x kk => exact (skipIf_handlerEntry_pc s _).imp_right fun hpc => .inl ⟨hpc, .inl ⟨x, kk, .inl rfl⟩⟩
  | sneVxKk x kk => exact (skipIf_handlerEntry_pc s _).imp_right fun hpc => .inl ⟨hpc, .inl ⟨x, kk, .inr rfl⟩⟩
  | seVxVy x y => exact (skipIf_handlerEntry_pc s _).imp_right fun hpc => .inl ⟨hpc, .inr (.inl ⟨x, y, .inl rfl⟩)⟩
  | sneVxVy x y => exact (skipIf_handlerEntry_pc s _).imp_right fun hpc => .inl ⟨hpc, .inr (.inl ⟨x, y, .inr rfl⟩)⟩
  | skpVx x => exact (skipIf_handlerEntry_pc s _).imp_right fun hpc => .inl ⟨hpc, .inr (.inr ⟨x, .inl rfl⟩)⟩
  | sknpVx x => exact (skipIf_handlerEntry_pc s _).imp_right fun hpc => .inl ⟨hpc, .inr (.inr ⟨x, .inr rfl⟩)⟩
  | jpNnn nnn => exact .inr (.inr (.inl ⟨nnn, .inl rfl, toNat_addrOperand nnn⟩))
  | callNnn nnn => exact .inr (.inr (.inl ⟨nnn, .inr rfl, toNat_addrOperand nnn⟩))
  | jpV0Nnn nnn => exact .inr (.inr (.inr (.inl ⟨nnn, rfl, toNat_jumpSum nnn _⟩)))
  | ret => exact .inr (.inr (.inr (.inr (.inl ⟨rfl, s.sp.toFin, rfl, rfl⟩))))
  | ldVxK x =>
    simp only [completed]
    cases highestKey s.keys with
    | none => exact .inr (.inr (.inr (.inr (.inr ⟨rfl, .inr ⟨rfl, x, rfl⟩⟩))))
    | some k => exact .inl rfl
  | _ => exact .inl rfl

/-! ### A tick on either side -/

theorem tickEvent_eq (s : State) : tickEvent s = s.withTimers (countDown s.dt) (countDown s.st) := rfl

/-- Settles O18: such an instruction keeps the timers it finds, and what it does to the rest does not depend on them. -/
theorem tickCommutesWithInstructions : Obligations.TickCommutesWithInstructions := by
  unfold Obligations.TickCommutesWithInstructions
  intro i s hi
  obtain ⟨t, ht, htimers⟩ := timersFree_exec i hi s
  have hkept : t = t.withTimers s.dt s.st := Host.Outcome.next.inj (ht.symm.trans (htimers s.dt s.st))
  refine ⟨t, ht, ?_⟩
  rw [tickEvent_eq, htimers, hkept]
  rfl

end Sys2Proof.Machine
end

section
/-! SUPPORT. Construction and the canonical form of memory (spec/20_memory.md, spec/70_reset_and_hazards.md section 1): a canonical
memory is the cells it reads as, FONT and POWER_ON_MEMORY read back, and a schedule goes on as its Later says. -/

namespace Sys2Proof.Machine

/-! ### A canonical memory is its reads -/

theorem Memory.read_of_mem {m : Memory} (hm : m.wf) {a : Nat} {b : Byte} (h : (a, b) ∈ m) : m.read a = b := by
  induction m with
  | nil => exact absurd h List.not_mem_nil
  | cons cell rest ih =>
    obtain ⟨k, d⟩ := cell
    obtain hhead | htail := List.mem_cons.mp h
    · obtain ⟨rfl, rfl⟩ := Prod.mk.inj hhead
      exact if_pos rfl
    · have hlt : k < a := (List.pairwise_cons.mp hm.1).1 _ htail
      exact (if_neg (Nat.ne_of_lt hlt)).trans (ih (Memory.wf_tail hm) htail)

theorem Memory.mem_of_read_ne {m : Memory} {a : Nat} (h : m.read a ≠ Memory.unlisted a) : (a, m.read a) ∈ m := by
  induction m with
  | nil => exact absurd rfl h
  | cons cell rest ih =>
    obtain ⟨k, d⟩ := cell
    simp only [Memory.read] at h ⊢
    split_ifs at h ⊢ with hk
    · exact hk ▸ List.mem_cons_self
    · exact List.mem_cons_of_mem _ (ih h)

theorem Memory.subset_of_reads {m m' : Memory} (hm : m.wf) (hread : ∀ a, m.read a = m'.read a) : m ⊆ m' := by
  rintro ⟨a, b⟩ hmem
  have hb : m'.read a = b := (hread a).symm.trans (Memory.read_of_mem hm hmem)
  have hne : m'.read a ≠ Memory.unlisted a := hb ▸ (hm.2 _ hmem).2
  exact hb ▸ Memory.mem_of_read_ne hne

/-- Settles O6: each memory's cells are among the other's, and both lists rise. -/
theorem canonicalMemoryIsItsReads : Obligations.CanonicalMemoryIsItsReads := by
  unfold Obligations.CanonicalMemoryIsItsReads
  intro m m' hm hm' hread
  have : Std.Antisymm (fun c d : Host.Cell => c.1 < d.1) := ⟨fun _ _ h h' => absurd h (lt_asymm h')⟩
  have : Std.Irrefl (fun c d : Host.Cell => c.1 < d.1) := ⟨fun _ => lt_irrefl _⟩
  exact List.Subset.antisymm_of_pairwise hm.1 hm'.1 (Memory.subset_of_reads hm hread)
    (Memory.subset_of_reads hm' fun a => (hread a).symm)

/-! ### Memory at construction -/

theorem Memory.read_construct_font (font : Config.Font) (powerOn : Nat → Byte) (g : Fin 16) (b : Fin 5) :
    (Memory.construct font powerOn).read (5 * g.val + b.val) = font[g][b] := by
  have hlt : 5 * g.val + b.val < (fontBytes font).length := by
    rw [Memory.length_fontBytes, Config.fontBytes]
    omega
  rw [← fontBytes_getElem font g b hlt, Memory.construct, Config.fontBase]
  simpa using Memory.read_writeBytes_at (fontBytes font) _ 0 _ hlt

theorem Memory.read_writeBytes_map (f : Nat → Byte) (m : Memory) (a n r : Nat) (h : r < n) :
    (m.writeBytes a ((List.range' a n).map f)).read (a + r) = f (a + r) := by
  rw [Memory.read_writeBytes_at _ _ _ _ (by simpa using h), List.getElem_map, List.getElem_range', Nat.one_mul]

theorem Memory.read_construct_powerOn (font : Config.Font) (powerOn : Nat → Byte) {a : Nat} (h : 0x050 ≤ a) (h' : a ≤ 0xFFF) :
    (Memory.construct font powerOn).read a = powerOn a := by
  obtain ⟨r, rfl⟩ : ∃ r, a = Config.fontBytes + r := Nat.exists_eq_add_of_le h
  have hr : r < Config.memSize - Config.fontBytes := by
    rw [Config.memSize, Config.fontBytes] at *
    omega
  rw [Memory.construct, Memory.read_writeBytes_outside, Memory.read_writeBytes_map _ _ _ _ _ hr]
  rw [Memory.length_fontBytes, Config.fontBase]
  omega

theorem construct_mem (font : Config.Font) (powerOn : Nat → Byte) (keys : Word) (es : List Event) (later : Later) :
    (State.construct font powerOn keys es later).mem = Memory.construct font powerOn := rfl

/-- Settles O4: every register is as State.reset writes it out, and its memory is that of construction with the default FONT
and power-on bytes 0x00. -/
theorem constructionValues : Obligations.ConstructionValues := by
  unfold Obligations.ConstructionValues
  have hmem : State.reset.mem = Memory.construct Config.defaultFont fun _ => Config.powerOnByte :=
    (congrArg State.mem construct_default).symm.trans (construct_mem _ _ _ _ _)
  refine ⟨fun r => ?_, rfl, rfl, rfl, fun j => ?_, rfl, rfl, blank_pixel, rfl, rfl, fun g b => ?_, fun a h h' => ?_, rfl⟩
  · simp [State.reset]
  · simp [State.reset]
  · rw [hmem, Memory.read_construct_font]
  · rw [hmem, Memory.read_construct_powerOn _ _ h h']
    rfl

/-! ### How a schedule goes on -/

theorem scheduledAt_ended {s : State} (h : nextEvent s = none) (k : Nat) : scheduledAt k s = none := by
  induction k with
  | zero => exact h
  | succ k ih => rw [scheduledAt, dueState_ended h, ih]

theorem scheduledAt_free {s : State} {n : Nat} (hs : s.schedule = []) (hl : s.later = .free n) (k : Nat) :
    scheduledAt k s = some (Config.scheduled (n + k)) := by
  induction k generalizing s n with
  | zero => simp [scheduledAt, nextEvent, hs, hl, takeEvent]
  | succ k ih =>
    rw [scheduledAt, ih (n := n + 1) (by simp [dueState, hs, hl, takeEvent]) (by simp [dueState, hs, hl, takeEvent])]
    congr 2
    omega

/-- A cycle at its start has the same events to come as its list spelled out in front of it. -/
theorem scheduledAt_cycle {s : State} {first : Event} {rest : List Event} (hs : s.schedule = [])
    (hl : s.later = .repeats first rest) (k : Nat) :
    scheduledAt k s = scheduledAt k { s with schedule := first :: rest } := by
  cases k with
  | zero => simp [scheduledAt, nextEvent, hs, hl, takeEvent]
  | succ k => simp [scheduledAt, dueState, hs, hl, takeEvent]

theorem scheduledAt_repeats {s : State} {first : Event} {rest : List Event} (hs : s.schedule = [])
    (hl : s.later = .repeats first rest) (k : Nat) :
    scheduledAt k s = (first :: rest)[k % (rest.length + 1)]? := by
  induction k using Nat.strong_induction_on with
  | _ k ih =>
    rw [scheduledAt_cycle hs hl]
    by_cases hk : k < rest.length + 1
    · rw [Nat.mod_eq_of_lt hk, List.getElem?_eq_getElem (by simpa using hk)]
      exact scheduledAt_listed (by simp [hk])
    · obtain ⟨j, rfl⟩ := Nat.exists_eq_add_of_le (Nat.not_lt.mp hk)
      calc scheduledAt (rest.length + 1 + j) { s with schedule := first :: rest }
        _ = scheduledAt j { s with schedule := [] } := scheduledAt_after (s := { s with schedule := first :: rest }) j
        _ = scheduledAt j s := scheduledAt_congr j hs.symm rfl
        _ = (first :: rest)[j % (rest.length + 1)]? := ih j (by omega)
        _ = _ := by rw [Nat.add_mod_left]

theorem frame_construct (font : Config.Font) (powerOn : Nat → Byte) (keys : Word) (es : List Event) (later : Later) :
    Frame [.memory, .keys, .schedule] [] State.reset (State.construct font powerOn keys es later) := by
  simp [Frame, State.construct]

/-- Settles O5: FONT is written last, over power-on memory, and after the listed events come those that Later gives. -/
theorem constructionMemory : Obligations.ConstructionMemory := by
  unfold Obligations.ConstructionMemory
  rintro font powerOn keys es later s rfl
  have after : ∀ k, scheduledAt (es.length + k) (State.construct font powerOn keys es later) =
      scheduledAt k (State.construct font powerOn keys [] later) := fun k =>
    scheduledAt_after (s := State.construct font powerOn keys es later) k
  refine ⟨Memory.read_construct_font font powerOn, fun a => Memory.read_construct_powerOn font powerOn, rfl,
    frame_construct font powerOn keys es later, rfl, rfl, Memory.construct_wf font powerOn,
    fun k => scheduledAt_listed (List.getElem?_eq_getElem k.isLt), ?_, ?_, ?_⟩
  · rintro rfl k hk
    obtain ⟨j, rfl⟩ := Nat.exists_eq_add_of_le hk
    exact (after j).trans (scheduledAt_ended rfl j)
  · rintro first rest rfl k
    exact (after k).trans (scheduledAt_repeats rfl rfl k)
  · rintro n rfl k
    exact (after k).trans (scheduledAt_free rfl rfl k)

end Sys2Proof.Machine
end

section
/-! SUPPORT. The events (spec/30_encoding.md R81, R82; spec/60_exceptions.md sections 3 and 4; spec/70_reset_and_hazards.md): what a
due STEP runs, and what each event of the host and the timer unit writes. -/

namespace Sys2Proof.Machine

/-! ### Every step has a next state -/

theorem exec_next (i : Instr) (s : State) : ∃ t, exec i s = .next t := by
  obtain ⟨c, -, h⟩ | ⟨-, h⟩ := exec_cases i s
  · exact ⟨_, h⟩
  · exact ⟨_, h⟩

theorem engineStep_next (s : State) : ∃ t, engineStep s = .next t := by
  by_cases hf : s.runState = .faulted
  · exact ⟨s, engineStep_faulted hf⟩
  · by_cases hpc : s.pc.toNat + 1 ≤ 0xFFF
    · rw [engineStep_fetched hf hpc]
      exact exec_next _ s
    · exact ⟨_, engineStep_unfetched hf (Nat.not_le.mp hpc)⟩

theorem runEvent_next (e : Event) (s : State) : ∃ t, runEvent e s = .next t := by
  cases e with
  | step => exact engineStep_next s
  | _ => exact ⟨_, rfl⟩

/-- Settles O3: no event answers anything but a next state, and neither does a schedule that has ended. -/
theorem stepAlwaysAnswersNext : Obligations.StepAlwaysAnswersNext := by
  unfold Obligations.StepAlwaysAnswersNext
  intro s
  cases he : nextEvent s with
  | none => exact ⟨s, step_ended he⟩
  | some e =>
    rw [step_event he]
    exact runEvent_next e _

/-! ### A due STEP -/

/-- Taking the event off the schedule changes nothing that the engine looks at. -/
theorem step_fetched {s : State} {i : Instr} (hdue : nextEvent s = some .step) (hrun : s.runState ≠ .faulted)
    (hpc : s.pc.toNat + 1 ≤ 0xFFF) (hi : decodeWord (fetchWord s) = i) : step s = exec i (dueState s) :=
  calc step s = engineStep (dueState s) := step_engine hdue
    _ = exec (decodeWord (fetchWord s)) (dueState s) := engineStep_fetched (s := dueState s) hrun hpc
    _ = exec i (dueState s) := by rw [hi]

/-- Settles O11: the two bytes at PC are the fetched word's. -/
theorem stepRunsDecodedInstruction : Obligations.StepRunsDecodedInstruction := by
  unfold Obligations.StepRunsDecodedInstruction
  intro s i hdue hrun hpc hdecode
  have hi : decodeWord (fetchWord s) = i := congrArg Prod.fst (Except.ok.inj hdecode)
  exact ⟨step_fetched hdue hrun hpc hi, frame_dueState (List.mem_singleton_self _) [] s, rfl, rfl⟩

/-- Settles O12: the engine takes the fault on the state with the event taken off. -/
theorem fetchBeyondMemoryFaults : Obligations.FetchBeyondMemoryFaults := by
  unfold Obligations.FetchBeyondMemoryFaults
  exact fun s hdue hrun hpc => (step_engine hdue).trans (engineStep_unfetched (s := dueState s) hrun hpc)

/-- Settles O13: a FAULTED engine does nothing. -/
theorem faultedStepChangesNothing : Obligations.FaultedStepChangesNothing := by
  unfold Obligations.FaultedStepChangesNothing
  exact fun s hdue hfaulted => (step_engine hdue).trans (engineStep_faulted (s := dueState s) hfaulted)

/-! ### A placed word -/

theorem placeWord_runState (s : State) (w : Word) : (placeWord s w).runState ≠ .faulted := by
  show (if s.runState = .faulted then RunState.running else s.runState) ≠ .faulted
  split_ifs with h
  · exact RunState.noConfusion
  · exact h

theorem placeWord_fetchable (s : State) (w : Word) : (placeWord s w).pc.toNat + 1 ≤ 0xFFF := by
  show (if fetchOutOfRange s then Config.programStart else s.pc).toNat + 1 ≤ 0xFFF
  split_ifs with h
  · decide
  · simpa [fetchOutOfRange] using h

/-- Settles O14: the placed word is fetched, by a STEP that is due and leaves the schedule as it is. -/
theorem placedWordIsRun : Obligations.PlacedWordIsRun := by
  unfold Obligations.PlacedWordIsRun
  intro s w
  rw [State.withFetchWord, tableWord_toNat]
  have hfetch : fetchWord (placeWord s w) = w := fetchWord_written (m := s.mem) rfl
  rw [step_fetched rfl (placeWord_runState s w) (placeWord_fetchable s w) (congrArg decodeWord hfetch),
    dueState_steps rfl rfl]

/-! ### The timer unit and the host -/

/-- Settles O17: a tick is countDown of the two timers. -/
theorem tickChangesOnlyTimers : Obligations.TickChangesOnlyTimers := by
  unfold Obligations.TickChangesOnlyTimers
  exact fun s h => ⟨_, step_tick h, toNat_countDown s.dt, toNat_countDown s.st, rfl, rfl,
    (frame_dueState (by simp) [] s).tickEvent (by simp) (by simp), rfl, rfl⟩

/-- Settles O20: reset writes the construction values of every part but memory, KEYS and the model's own. -/
theorem resetWrites : Obligations.ResetWrites := by
  unfold Obligations.ResetWrites
  intro s h
  refine ⟨_, step_reset h, fun r => ?_, rfl, rfl, rfl, fun j => ?_, rfl, rfl, blank_pixel, rfl, rfl, rfl, rfl, rfl, rfl, rfl,
    rfl, rfl⟩
  · simp [resetEvent]
  · simp [resetEvent]

/-- Settles O23: each of the three events is its one write. -/
theorem keysFrameAndDirtyEvents : Obligations.KeysFrameAndDirtyEvents := by
  unfold Obligations.KeysFrameAndDirtyEvents
  exact fun _ _ => ⟨step_event, step_event, step_event⟩

/-- Settles O24: the port shows the two codes by the functions that number them. -/
theorem statusPortCodes : Obligations.StatusPortCodes := by
  unfold Obligations.StatusPortCodes
  exact fun s => ⟨rfl, rfl, congrArg runStateCode, congrArg runStateCode, congrArg runStateCode, congrArg faultCodeBits,
    congrArg faultCodeBits, congrArg faultCodeBits, congrArg faultCodeBits, congrArg faultCodeBits, congrArg faultCodeBits⟩

/-! ### LOAD -/

theorem step_load {s : State} {address : Word} {bytes : List Byte} (h : nextEvent s = some (.load address bytes)) :
    step s = .next (loadEvent address bytes (dueState s)) := step_event h

theorem loadPort_rejects {address : Word} {bytes : List Byte} (m : Memory) (h : address.toNat + bytes.length > 4096) :
    loadPort m address bytes = (.addressError, m) := if_pos h

theorem loadPort_accepts {address : Word} {bytes : List Byte} (m : Memory) (h : address.toNat + bytes.length ≤ 4096) :
    loadPort m address bytes = (.ok, m.writeBytes address.toNat bytes) := if_neg (Nat.not_lt.mpr h)

theorem frame_loadEvent (address : Word) (bytes : List Byte) (s : State) :
    Frame [.memory, .loadResult] [] s (loadEvent address bytes s) := by
  simp [Frame]

/-- Settles O21: the port's check decides both the result and whether the bytes are written. -/
theorem loadWritesAllOrNothing : Obligations.LoadWritesAllOrNothing := by
  unfold Obligations.LoadWritesAllOrNothing
  intro s address bytes h
  have hframe : Frame [.memory, .schedule, .loadResult] [] s (loadEvent address bytes (dueState s)) :=
    (frame_dueState (by simp) _ s).trans ((frame_loadEvent address bytes (dueState s)).mono (by simp) (by simp))
  refine ⟨_, step_load h, rfl, rfl, rfl, rfl, hframe, fun hbad => ?_, fun hok => ?_⟩
  · rw [loadEvent_loadResult, loadEvent_mem, loadPort_rejects _ hbad]
    exact ⟨rfl, fun _ => rfl⟩
  · rw [loadEvent_loadResult, loadEvent_mem, loadPort_accepts _ hok]
    exact ⟨rfl, fun j => Memory.read_writeBytes_at bytes _ _ j j.isLt,
      fun a => Memory.read_writeBytes_outside bytes (dueState s).mem address.toNat a⟩

/-- Settles O22: the two bytes are written at PC, where the next STEP fetches them. -/
theorem loadedWordIsFetched : Obligations.LoadedWordIsFetched := by
  unfold Obligations.LoadedWordIsFetched
  intro s w hload hstep hrun hpc
  have hfits : s.pc.toNat + (bytesOfWord w).length ≤ 4096 := Nat.succ_le_succ hpc
  have hmem : (loadEvent s.pc (bytesOfWord w) (dueState s)).mem = s.mem.writeBytes s.pc.toNat (bytesOfWord w) :=
    congrArg Prod.snd (loadPort_accepts s.mem hfits)
  refine ⟨_, step_load hload, rfl, step_fetched ?_ hrun hpc (congrArg decodeWord (fetchWord_written hmem))⟩
  exact (nextEvent_congr rfl rfl).trans hstep

end Sys2Proof.Machine
end

section
/-! SUPPORT. Runs of the machine: the invariant that every event keeps (spec/10_state.md section 3, spec/60_exceptions.md
section 1), a fault that stays until RESET (R182, R183), and the two pairs of instructions that the spec runs in sequence. -/

namespace Sys2Proof.Machine

/-! ### The invariant at construction -/

/-- Settles O1: no memory cell is listed, and the status block is clear. -/
theorem resetMeetsInvariant : Obligations.ResetMeetsInvariant := by
  unfold Obligations.ResetMeetsInvariant
  exact ⟨Memory.wf_nil, by decide, by decide, fun _ => ⟨by decide, rfl, rfl⟩, fun h => absurd rfl h⟩

/-! ### A step that ran its instruction to the end -/

theorem completed_mem_eq {i : Instr} (s : State) (h : .memory ∉ writtenParts i) : (completed i s).mem = s.mem := by
  cases i with
  | ldBVx | ldMemVx => exact absurd (List.mem_singleton_self _) h
  | ldVxK x =>
    simp only [completed]
    cases highestKey s.keys <;> rfl
  | _ => simp [completed]

/-- A store in range keeps memory canonical, and no other instruction writes memory. -/
theorem completed_mem_wf {i : Instr} {s : State} (h : ∀ c, ¬FaultsWith i s c) (hm : s.mem.wf) : (completed i s).mem.wf := by
  have fits : ∀ n, ¬BeyondMemory s.i.toNat (n + 1) → s.i.toNat + (n + 1) ≤ Config.memSize := fun n hb => by
    rw [BeyondMemory] at hb
    rw [Config.memSize]
    omega
  by_cases hw : .memory ∈ writtenParts i
  · obtain ⟨x, rfl | rfl⟩ := memory_written hw
    · refine Memory.writeBytes_wf _ hm (fits 2 fun hb => h .dataAddress ?_)
      exact .inr (.inr (.inr (.inl ⟨x, rfl, hb, rfl⟩)))
    · refine Memory.writeBytes_wf _ hm ?_
      rw [length_regsUpTo]
      refine fits x fun hb => h .dataAddress ?_
      exact .inr (.inr (.inr (.inr (.inl ⟨x, .inl rfl, hb, rfl⟩))))
  · rwa [completed_mem_eq s hw]

/-- The entry that CALL writes is the address after a fetched instruction (R26). -/
theorem completed_stack_le {i : Instr} {s : State} (h : ∀ c, ¬FaultsWith i s c) (hpc : s.pc.toNat + 1 ≤ 0xFFF)
    (hs : ∀ j : Fin 16, s.stack[j].toNat ≤ 0x1000) (j : Fin 16) : (completed i s).stack[j].toNat ≤ 0x1000 := by
  by_cases hcall : ∃ nnn, i = .callNnn nnn
  · obtain ⟨nnn, rfl⟩ := hcall
    have hsp : s.sp ≠ 15 := fun hsp => h .stackOverflow (.inl ⟨nnn, rfl, hsp, rfl⟩)
    have hread : (completed (.callNnn nnn) s).stack[j] = _ := push_read (handlerEntry s) (handlerEntry s).pc hsp j
    rw [hread, handlerEntry_pc]
    split_ifs
    · bv_omega
    · exact hs j
  · rw [completed_stack_eq s fun nnn he => hcall ⟨nnn, he⟩]
    exact hs j

/-- No row of where PC goes passes 0xFFF + 0xFF, from a PC that was fetched from (R26). -/
theorem exec_pc_le {i : Instr} {s t : State} (h : exec i s = .next t) (hpc : s.pc.toNat + 1 ≤ 0xFFF)
    (hs : ∀ j : Fin 16, s.stack[j].toNat ≤ 0x1000) : t.pc.toNat ≤ 0x10FE := by
  obtain he | ⟨he, -⟩ | ⟨nnn, -, he⟩ | ⟨nnn, -, he⟩ | ⟨-, j, -, he⟩ | ⟨he, -⟩ := pcGoesWhereListed i s t h
  · bv_omega
  · bv_omega
  · have := nnn.isLt
    omega
  · have := nnn.isLt
    have := s.v[0].isLt
    omega
  · have := hs j
    rw [he]
    omega
  · rw [he]
    omega

/-! ### The fault record -/

theorem faultsWith_code_ne_none {i : Instr} {s : State} {c : FaultCode} (h : FaultsWith i s c) : c ≠ .none := by
  obtain ⟨_, _, _, rfl⟩ | ⟨_, _, rfl⟩ | ⟨_, _, _, _, _, rfl⟩ | ⟨_, _, _, rfl⟩ | ⟨_, _, _, rfl⟩ | ⟨_, _, _, rfl⟩ := h <;>
    exact FaultCode.noConfusion

theorem Inv.faultCode_eq_none {s : State} (h : Inv s) (hrun : s.runState ≠ .faulted) : s.faultCode = .none := by
  obtain ⟨-, hrecorded⟩ := h.faultRecord
  exact by_contra fun hc => hrun (hrecorded hc).1

/-- FAULT_OP is the encoded instruction, whose word decodes back to it (R181). -/
theorem faultRecordOk_takeFault {i : Instr} {s : State} {c : FaultCode} (hi : i.wellFormed = true) (h : FaultsWith i s c) :
    FaultRecordOk (takeFault c (encode i) s) := by
  refine ⟨fun hc => absurd hc (faultsWith_code_ne_none h), fun _ => ⟨rfl, rfl, .inr ?_⟩⟩
  rw [takeFault_faultOp, decodeWord_encode hi]
  exact h

theorem faultRecordOk_completed (i : Instr) {s : State} (h : Inv s) (hrun : s.runState ≠ .faulted) :
    FaultRecordOk (completed i s) := by
  obtain ⟨-, -, -, -, -, -, -, hrecord, -⟩ := frame_completed i s
  obtain ⟨hcode, hpc, hop⟩ := hrecord (faultRecord_not_written i)
  have hnone := h.faultCode_eq_none hrun
  obtain ⟨hclear, -⟩ := h.faultRecord
  obtain ⟨-, hpc0, hop0⟩ := hclear hnone
  exact ⟨fun _ => ⟨completed_runState_ne_faulted i s, hpc.trans hpc0, hop.trans hop0⟩,
    fun hne => absurd (hcode.trans hnone) hne⟩

/-! ### Every event keeps the invariant -/

theorem Inv.of_exec {i : Instr} {s t : State} (h : Inv s) (hi : i.wellFormed = true) (hrun : s.runState ≠ .faulted)
    (hpc : s.pc.toNat + 1 ≤ 0xFFF) (ht : exec i s = .next t) : Inv t := by
  have hpc' := exec_pc_le ht hpc h.stack
  obtain ⟨c, hc, rfl⟩ | ⟨hc, rfl⟩ := exec_next_cases ht
  · exact ⟨h.memory, hpc', h.stack, faultRecordOk_takeFault hi hc⟩
  · exact ⟨completed_mem_wf hc h.memory, hpc', completed_stack_le hc hpc h.stack, faultRecordOk_completed i h hrun⟩

theorem Inv.of_engineStep {s t : State} (h : Inv s) (ht : engineStep s = .next t) : Inv t := by
  by_cases hf : s.runState = .faulted
  · obtain rfl := Host.Outcome.next.inj ((engineStep_faulted hf).symm.trans ht)
    exact h
  · by_cases hpc : s.pc.toNat + 1 ≤ 0xFFF
    · rw [engineStep_fetched hf hpc] at ht
      exact h.of_exec (hasWord_decodeWord _).1 hf hpc ht
    · have hbeyond := Nat.not_le.mp hpc
      obtain rfl := Host.Outcome.next.inj ((engineStep_unfetched hf hbeyond).symm.trans ht)
      exact ⟨h.memory, h.pc, h.stack, fun hc => absurd hc (by simp), fun _ => ⟨rfl, rfl, .inl ⟨rfl, rfl, hbeyond⟩⟩⟩

/-- The other events leave PC, the stack and the fault record with all it speaks of, or write them as at construction. -/
theorem Inv.of_runEvent {e : Event} {s t : State} (h : Inv s) (ht : runEvent e s = .next t) : Inv t := by
  cases e with
  | step => exact h.of_engineStep ht
  | reset =>
    obtain rfl := Host.Outcome.next.inj ht
    exact ⟨h.memory, resetMeetsInvariant.pc, resetMeetsInvariant.stack, resetMeetsInvariant.faultRecord⟩
  | load address bytes =>
    obtain rfl := Host.Outcome.next.inj ht
    exact ⟨Memory.loadPort_wf h.memory address bytes, h.pc, h.stack, h.faultRecord⟩
  | _ =>
    obtain rfl := Host.Outcome.next.inj ht
    exact ⟨h.memory, h.pc, h.stack, h.faultRecord⟩

/-- Settles O2: the due event is run on a state that differs in its schedule alone, and every event keeps the invariant. -/
theorem stepKeepsInvariant : Obligations.StepKeepsInvariant := by
  unfold Obligations.StepKeepsInvariant
  intro s t h ht
  cases he : nextEvent s with
  | none =>
    obtain rfl := Host.Outcome.next.inj ((step_ended he).symm.trans ht)
    exact h
  | some e =>
    have hdue : Inv (dueState s) := ⟨h.memory, h.pc, h.stack, h.faultRecord⟩
    exact hdue.of_runEvent ((step_event he).symm.trans ht)

/-! ### A fault stays -/

/-- t is FAULTED, as s is, with what a fault freezes (R182). -/
structure StaysFaulted (s t : State) : Prop where
  runState : t.runState = .faulted
  pc : t.pc = s.pc
  faultCode : t.faultCode = s.faultCode
  faultPc : t.faultPc = s.faultPc
  faultOp : t.faultOp = s.faultOp
  v : t.v = s.v
  i : t.i = s.i
  sp : t.sp = s.sp
  stack : t.stack = s.stack
  fb : t.fb = s.fb
  draws : t.draws = s.draws

theorem StaysFaulted.trans {s t u : State} (h : StaysFaulted s t) (h' : StaysFaulted t u) : StaysFaulted s u :=
  ⟨h'.runState, h'.pc.trans h.pc, h'.faultCode.trans h.faultCode, h'.faultPc.trans h.faultPc, h'.faultOp.trans h.faultOp,
    h'.v.trans h.v, h'.i.trans h.i, h'.sp.trans h.sp, h'.stack.trans h.stack, h'.fb.trans h.fb, h'.draws.trans h.draws⟩

theorem StaysFaulted.refl {s : State} (h : s.runState = .faulted) : StaysFaulted s s :=
  ⟨h, rfl, rfl, rfl, rfl, rfl, rfl, rfl, rfl, rfl, rfl⟩

theorem staysFaulted_dueState {s : State} (h : s.runState = .faulted) : StaysFaulted s (dueState s) :=
  ⟨h, rfl, rfl, rfl, rfl, rfl, rfl, rfl, rfl, rfl, rfl⟩

/-- One event that is no RESET on a FAULTED engine, which leaves the rest of the schedule as it is. -/
theorem runEvent_faulted {e : Event} {s : State} (h : s.runState = .faulted) (he : e ≠ .reset) :
    ∃ t, runEvent e s = .next t ∧ StaysFaulted s t ∧ t.schedule = s.schedule ∧ t.later = s.later := by
  cases e with
  | reset => exact absurd rfl he
  | step => exact ⟨s, engineStep_faulted h, .refl h, rfl, rfl⟩
  | _ => exact ⟨_, rfl, ⟨h, rfl, rfl, rfl, rfl, rfl, rfl, rfl, rfl, rfl, rfl⟩, rfl, rfl⟩

theorem step_faulted {s : State} (h : s.runState = .faulted) (he : nextEvent s ≠ some .reset) :
    ∃ t, step s = .next t ∧ StaysFaulted s t ∧ ∀ k, scheduledAt k t = scheduledAt (k + 1) s := by
  cases hnext : nextEvent s with
  | none => exact ⟨s, step_ended hnext, .refl h, fun k => by rw [scheduledAt, dueState_ended hnext]⟩
  | some e =>
    have hdue := staysFaulted_dueState h
    obtain ⟨t, ht, hst, hsched, hlater⟩ := runEvent_faulted (e := e) hdue.runState fun hr => he (hr ▸ hnext)
    exact ⟨t, (step_event hnext).trans ht, hdue.trans hst, fun k => scheduledAt_congr k hsched hlater⟩

/-- Each event leaves the engine FAULTED, and what comes after it on the schedule is what came after it before. -/
theorem run_faulted {n : Nat} {s : State} (h : s.runState = .faulted)
    (hsched : ∀ k : Nat, k < n → scheduledAt k s ≠ some .reset) :
    ∃ t, Host.Core.run core n s = .next t ∧ StaysFaulted s t := by
  induction n generalizing s with
  | zero => exact ⟨s, rfl, .refl h⟩
  | succ n ih =>
    obtain ⟨t, hstep, hst, hlater⟩ := step_faulted h (hsched 0 n.succ_pos)
    obtain ⟨u, hrun, htu⟩ := ih hst.runState fun k hk => hlater k ▸ hsched (k + 1) (Nat.succ_lt_succ hk)
    exact ⟨u, (run_succ hstep).trans hrun, hst.trans htu⟩

/-- Settles O27: run_faulted, by induction on the number of events. -/
theorem faultStaysUntilReset : Obligations.FaultStaysUntilReset := by
  unfold Obligations.FaultStaysUntilReset
  intro n s h hsched
  obtain ⟨t, hrun, hst⟩ := run_faulted h hsched
  exact ⟨t, hrun, hst.runState, hst.pc, hst.faultCode, hst.faultPc, hst.faultOp, hst.v, hst.i, hst.sp, hst.stack, hst.fb,
    hst.draws⟩

/-! ### Two instructions in sequence -/

/-- The next state of a STEP that runs i and does not fault. -/
def stepped (i : Instr) (s : State) : State := completed i (dueState s)

theorem step_eq_stepped {i : Instr} {s : State} (hdue : nextEvent s = some .step) (hrun : s.runState ≠ .faulted)
    (hpc : s.pc.toNat + 1 ≤ 0xFFF) (hi : decodeWord (fetchWord s) = i)
    (hexec : exec i (dueState s) = .next (completed i (dueState s))) : step s = .next (stepped i s) :=
  (step_fetched hdue hrun hpc hi).trans hexec

/-- A STEP writes the schedule and what its instruction writes. -/
theorem frame_stepped (i : Instr) (s : State) : Frame (.schedule :: writtenParts i) (writtenRegs i) s (stepped i s) :=
  (frame_dueState List.mem_cons_self _ s).trans
    ((frame_completed i (dueState s)).mono (List.subset_cons_self _ _) (List.Subset.refl _))

theorem nextEvent_stepped (i : Instr) (s : State) : nextEvent (stepped i s) = scheduledAt 1 s := by
  obtain ⟨-, -, -, -, -, -, -, -, -, -, -, hsched, -⟩ := frame_completed i (dueState s)
  obtain ⟨hs, hl⟩ := hsched (schedule_not_written i)
  exact nextEvent_congr hs hl

theorem run_two {s t u : State} (h : step s = .next t) (h' : step t = .next u) : Host.Core.run core 2 s = .next u :=
  (run_succ h).trans (run_succ h')

/-- Settles O43: the second word is fetched with memory as it was, and adds to the byte that the first one loaded. -/
theorem loadThenAddImmediate : Obligations.LoadThenAddImmediate := by
  unfold Obligations.LoadThenAddImmediate
  intro s x k k' hdue hdue' hrun hpc hfetch hfetch'
  have hload : step s = .next (stepped (.ldVxKk x k) s) :=
    step_eq_stepped hdue hrun (by omega) ((congrArg decodeWord hfetch).trans (decodeWord_ldVxKk x k)) rfl
  have hpc' : (s.pc + 2).toNat + 1 ≤ 0xFFF := by bv_omega
  have hadd : step (stepped (.ldVxKk x k) s) = .next (stepped (.addVxKk x k') (stepped (.ldVxKk x k) s)) :=
    step_eq_stepped ((nextEvent_stepped _ s).trans hdue') (completed_runState_ne_faulted _ _) hpc'
      ((congrArg decodeWord hfetch').trans (decodeWord_addVxKk x k')) rfl
  refine ⟨_, run_two hload hadd, ?_, BitVec.add_assoc s.pc 2 2, rfl, (frame_stepped (.ldVxKk x k) s).trans
    (frame_stepped (.addVxKk x k') _)⟩
  have hk : (dueState (stepped (.ldVxKk x k) s)).v[x] = k := setV_read_self _ x k
  rw [stepped, completed, setV_read_self, hk, BitVec.toNat_add]

/-- Settles O60: RET takes the entry that CALL pushed, and SP goes one up and one down. -/
theorem callReturnRoundTrip : Obligations.CallReturnRoundTrip := by
  unfold Obligations.CallReturnRoundTrip
  intro s nnn hdue hdue' hrun hpc hsp hfetch hnnn hfetch'
  have hcall : step s = .next (stepped (.callNnn nnn) s) := step_eq_stepped hdue hrun hpc hfetch (exec_callNnn nnn hsp)
  have hpc' : (stepped (.callNnn nnn) s).pc.toNat = nnn.toNat := toNat_addrOperand nnn
  have hi' : decodeWord (fetchWord (stepped (.callNnn nnn) s)) = .ret := by
    rw [fetchWord, hpc']
    exact hfetch'
  have hsp' : s.sp + 1 ≠ 0 := by bv_omega
  have hret : step (stepped (.callNnn nnn) s) = .next (stepped .ret (stepped (.callNnn nnn) s)) :=
    step_eq_stepped ((nextEvent_stepped _ s).trans hdue') (completed_runState_ne_faulted _ _) (by omega) hi' (exec_ret hsp')
  have pushed := push_read (handlerEntry (dueState s)) (s.pc + 2) hsp
  refine ⟨_, run_two hcall hret, push_top _ _, rfl, BitVec.add_sub_cancel s.sp 1, fun j hj => (pushed j).trans (if_pos hj),
    fun j hj => (pushed j).trans (if_neg hj), ?_⟩
  exact ((frame_stepped (.callNnn nnn) s).trans (frame_stepped .ret _)).mono (by simp [writtenParts]) (List.Subset.refl _)

end Sys2Proof.Machine
end
